-- ==== Sys2Proof/Word.lean ====
section
/-! DEFINITION. The word types: bytes, nibbles, port handles and uninterpreted operand tokens. -/

namespace Sys2Proof

/-- An 8-bit register or character (00_scope.md R8). -/
abbrev Byte := BitVec 8

/-- Four bits: half of a byte, one transfer of the 4-bit bus (30_encoding.md R72). -/
abbrev Nibble := BitVec 4

/-- A port handle: the name of one 8-bit host register (00_scope.md R12), used as its address. -/
abbrev Handle := Nat

/-- A value of an OPEN type of the spec (92_eei_decisions.md D21, D28), held as the text the host wrote for it. -/
abbrev Token := List Byte

end Sys2Proof
end

