-- ==== Sys2Proof/Config.lean ====
section
/-! DEFINITION. What is fixed for the machine: the parameter types of 00_scope.md R6, R7 and the free values
(opaque constants without a body) that the spec leaves OPEN. -/

namespace Sys2Proof

/-- The two bus widths (00_scope.md R3). -/
inductive BusWidth where
  | fourBit
  | eightBit
  deriving DecidableEq, Repr, Inhabited

/-- A duration in the unit the delay primitive is called with (60_exceptions.md R210). -/
inductive Duration where
  | us (n : Nat)
  | ms (n : Nat)
  deriving DecidableEq, Repr

/-- The timing parameters of 00_scope.md R7, each a whole number of the unit its rule gives it
(DESIGN CHOICE, log 10). -/
structure Timing where
  /-- `T_POWERON`, ms. -/
  tPowerOn : Nat
  /-- `T_INIT1`, ms. -/
  tInit1 : Nat
  /-- `T_INIT2`, µs. -/
  tInit2 : Nat
  /-- `T_E_SETUP`, µs. -/
  tESetup : Nat
  /-- `T_E_HIGH`, µs. -/
  tEHigh : Nat
  /-- `T_EXEC`, µs. -/
  tExec : Nat
  /-- `T_LONG`, ms. -/
  tLong : Nat
  deriving DecidableEq, Repr

/-- The four formatting registers, opaque values (10_state.md R21, 92_eei_decisions.md D28). -/
structure Fmt where
  screenSize : Token
  rowWidth : Token
  numPrecision : Token
  numBase : Token
  deriving DecidableEq, Repr

/-- The pin wiring, bus width and formatting registers of a session: the configuration registers of 10_state.md R21
other than `VALID`. -/
structure SessionConfig where
  dataPort : Handle
  dataDdr : Handle
  ctrlPort : Handle
  ctrlDdr : Handle
  rsBit : BitVec 3
  enBit : BitVec 3
  busWidth : BusWidth
  fmt : Fmt
  deriving DecidableEq, Repr

/-- Which nibble of a byte the receiver expects next in 4-bit mode (10_state.md R34). -/
inductive NibblePhase where
  | high
  | low
  deriving DecidableEq, Repr, Inhabited

/-- The receiver's state that the spec names: `RXW` and `RXPH` (10_state.md R34). -/
structure Receiver where
  rxw : BusWidth
  rxph : NibblePhase
  deriving DecidableEq, Repr, Inhabited

/-- The OPEN formatter of `PRINT_INT` (42_commands.md R179, 92_eei_decisions.md D21). Free value (log 9). -/
opaque Config.fmtInt : Fmt → Token → List Byte

/-- The OPEN formatter of `PRINT_DEC` (42_commands.md R180, 92_eei_decisions.md D21). Free value (log 9). -/
opaque Config.fmtDec : Fmt → Token → List Byte

/-- The receiver's `RXW` and `RXPH`: any value (93_implementation_defined.md I3, I12, I13). Free value (log 11),
drawn for a session's number and a plain counter. -/
opaque Config.rxFree : Nat → Nat → Receiver

end Sys2Proof
end

