-- ==== Sys2Proof/Machine/Literals.lean ====
section
/-! DEFINITION. The one table of the spec's literals (93_implementation_defined.md I14): instruction codes, flag bits,
initialization bytes, row bases, the string terminator and the default timings. Flag positions and the bytes composed
from them are HD44780 general knowledge (G1-G3; PRESUMED, log 20). -/

namespace Sys2Proof.Machine

/-- Clear (30_encoding.md R74). -/
def codeClear : Byte := 0x01
/-- Return-home (R75). -/
def codeHome : Byte := 0x02
/-- Entry-mode-set (R76). -/
def codeEntryMode : Byte := 0x04
/-- Display-control (R77). -/
def codeDisplayControl : Byte := 0x08
/-- Cursor/display-shift (R78). -/
def codeShift : Byte := 0x10
/-- Function-set (R79). -/
def codeFunctionSet : Byte := 0x20
/-- Set-CGRAM-address (R80). -/
def codeSetCgram : Byte := 0x40
/-- Set-DDRAM-address (R81). -/
def codeSetDdram : Byte := 0x80

/-- `D` of display-control (10_state.md R25). PRESUMED, log 20. -/
def flagD : Byte := 0x04
/-- `C` of display-control (R25). PRESUMED, log 20. -/
def flagC : Byte := 0x02
/-- `B` of display-control (R25). PRESUMED, log 20. -/
def flagB : Byte := 0x01
/-- `I/D` of entry-mode (R26). PRESUMED, log 20. -/
def flagID : Byte := 0x02
/-- `S` of entry-mode (R26). PRESUMED, log 20. -/
def flagS : Byte := 0x01
/-- `S/C` of cursor/display-shift (30_encoding.md R78). PRESUMED, log 20. -/
def flagSC : Byte := 0x08
/-- `R/L` of cursor/display-shift (R78). PRESUMED, log 20. -/
def flagRL : Byte := 0x04
/-- `DL` of function-set (10_state.md R27). PRESUMED, log 20. -/
def flagDL : Byte := 0x10
/-- `N` of function-set (R27). PRESUMED, log 20. -/
def flagN : Byte := 0x08
/-- `F` of function-set (R27). PRESUMED, log 20. -/
def flagF : Byte := 0x04

/-- The SYNC pattern of INIT step 4 (30_encoding.md R83). PRESUMED, log 20. -/
def syncPattern : Byte := 0x30
/-- The TO4 pattern of INIT step 5 (R83): nibble 0x2 on the upper data lines. PRESUMED, log 20. -/
def to4Pattern : Byte := 0x20
/-- `DC` after INIT step 7: display on, cursor off, blink off (41_init.md R137). -/
def initDC : Byte := codeDisplayControl ||| flagD
/-- `EM` after INIT step 9: left-to-right, no autoscroll (R139). -/
def initEM : Byte := codeEntryMode ||| flagID
/-- The byte of SCROLL_LEFT (42_commands.md R175). -/
def byteScrollLeft : Byte := codeShift ||| flagSC
/-- The byte of SCROLL_RIGHT (R176). -/
def byteScrollRight : Byte := codeShift ||| flagSC ||| flagRL

/-- The string terminator (R178). -/
def terminator : Byte := 0x00

/-- The final function-set byte of INIT step 6, `FSV` (41_init.md R136). -/
def fsv : BusWidth → Byte
  | .eightBit => codeFunctionSet ||| flagN ||| flagDL
  | .fourBit => codeFunctionSet ||| flagN

/-- The row base table (42_commands.md R163): row 3 has base 0x00, as the source marks (I9). -/
def rowBase (row : Byte) : Byte :=
  if row = 1 then 0x40 else if row = 2 then 0x14 else 0x00

/-- The default timings (00_scope.md R7). -/
def defaultTiming : Timing where
  tPowerOn := 50
  tInit1 := 5
  tInit2 := 200
  tESetup := 1
  tEHigh := 1
  tExec := 100
  tLong := 2

/-- The legal minima (70_reset_and_hazards.md R236). -/
def minimumTiming : Timing where
  tPowerOn := 50
  tInit1 := 5
  tInit2 := 150
  tESetup := 1
  tEHigh := 1
  tExec := 37
  tLong := 2

end Sys2Proof.Machine
end

