-- ==== Sys2Proof/Syntax.lean ====
section
/-! DEFINITION. The instructions: one constructor for each row of spec/opcode_table.json, the form in which an
instruction reaches the block, and the reasons for which its decoding is refused. -/

namespace Sys2Proof

/-- The rows of spec/opcode_table.json, in its order. -/
inductive Instr where
  /-- Bus word CLEAR, `0 00000001` (30_encoding.md R74). -/
  | clearWord
  /-- Bus word RETURN_HOME, `0 0000001x` (R75); `x` is a don't-care. -/
  | returnHome (x : Bool)
  /-- Bus word ENTRY_MODE_SET, `0 000001IS` (R76). -/
  | entryModeSet (id s : Bool)
  /-- Bus word DISPLAY_CONTROL, `0 00001DCB` (R77). -/
  | displayControl (d c b : Bool)
  /-- Bus word CURSOR_DISPLAY_SHIFT, `0 0001SRxx` (R78); `x` is a don't-care. -/
  | cursorDisplayShift (sc rl : Bool) (x : BitVec 2)
  /-- Bus word FUNCTION_SET, `0 001LNFxx` (R79); `x` is a don't-care. -/
  | functionSet (dl n f : Bool) (x : BitVec 2)
  /-- Bus word SET_CGRAM_ADDRESS, `0 01aaaaaa` (R80). -/
  | setCgramAddress (a : BitVec 6)
  /-- Bus word SET_DDRAM_ADDRESS, `0 1aaaaaaa` (R81). -/
  | setDdramAddress (a : BitVec 7)
  /-- Bus word DATA_WRITE, `1 dddddddd` (R82). -/
  | dataWrite (d : Byte)
  /-- Bus word `0 00000000`, no instruction (R86). -/
  | notEmittedZero
  /-- Raw transfer `0 00110000` (R83). -/
  | syncPoke8
  /-- Raw transfer `0 0011` (R83). -/
  | syncPoke4
  /-- Raw transfer `0 0010` (R83). -/
  | to4Poke
  /-- `INIT dp, dd, cp, cd, rs, en, FOUR|EIGHT, ss, rw, pr, nb` with the draw `allocOk` (41_init.md R130). -/
  | init (cfg : SessionConfig) (allocOk : Bool)
  /-- `CLEAR` (42_commands.md R161). -/
  | clear
  /-- `HOME` (R162). -/
  | home
  /-- `SETCURSOR row, col` (R164). -/
  | setCursor (row col : Byte)
  /-- `DISPLAY_ON` (R165). -/
  | displayOn
  /-- `DISPLAY_OFF` (R166). -/
  | displayOff
  /-- `CURSOR_ON` (R167). -/
  | cursorOn
  /-- `CURSOR_OFF` (R168). -/
  | cursorOff
  /-- `BLINK_ON` (R169). -/
  | blinkOn
  /-- `BLINK_OFF` (R170). -/
  | blinkOff
  /-- `LTR` (R171). -/
  | ltr
  /-- `RTL` (R172). -/
  | rtl
  /-- `AUTOSCROLL_ON` (R173). -/
  | autoscrollOn
  /-- `AUTOSCROLL_OFF` (R174). -/
  | autoscrollOff
  /-- `SCROLL_LEFT` (R175). -/
  | scrollLeft
  /-- `SCROLL_RIGHT` (R176). -/
  | scrollRight
  /-- `PRINT_CHAR c` (R177). -/
  | printChar (c : Byte)
  /-- `PRINT_STR s` (R178). -/
  | printStr (s : List Byte)
  /-- `PRINT_INT v`, `v` of the OPEN type `IntVal` (R179). -/
  | printInt (v : Token)
  /-- `PRINT_DEC v`, `v` of the OPEN type `DecVal` (R180). -/
  | printDec (v : Token)
  /-- Internal `PULSE` (40_bus_and_pulse.md R100). -/
  | pulse
  /-- Internal `SET_RS rs` (R102). -/
  | setRs (rs : Bool)
  /-- Internal `WRITE b, rs` for `BUSWIDTH = EightBit` (R103). -/
  | write8 (b : Byte) (rs : Bool)
  /-- Internal `WRITE b, rs` for `BUSWIDTH = FourBit` (R104). -/
  | write4 (b : Byte) (rs : Bool)
  /-- Internal `WRITE b, rs`, dispatched on `BUSWIDTH` (R105). -/
  | write (b : Byte) (rs : Bool)
  /-- Internal `POKE v` (R107). -/
  | poke (v : Byte)
  deriving DecidableEq, Repr

/-- The `format` column of spec/opcode_table.json, the two raw formats taken together. -/
inductive Kind where
  | busWord
  | rawTransfer
  | hostOp
  | internalOp
  deriving DecidableEq, Repr

/-- The kind of an instruction's row. -/
def Instr.kind : Instr → Kind
  | .clearWord | .returnHome _ | .entryModeSet _ _ | .displayControl _ _ _ | .cursorDisplayShift _ _ _
  | .functionSet _ _ _ _ | .setCgramAddress _ | .setDdramAddress _ | .dataWrite _ | .notEmittedZero => .busWord
  | .syncPoke8 | .syncPoke4 | .to4Poke => .rawTransfer
  | .init _ _ | .clear | .home | .setCursor _ _ | .displayOn | .displayOff | .cursorOn | .cursorOff | .blinkOn
  | .blinkOff | .ltr | .rtl | .autoscrollOn | .autoscrollOff | .scrollLeft | .scrollRight | .printChar _
  | .printStr _ | .printInt _ | .printDec _ => .hostOp
  | .pulse | .setRs _ | .write8 _ _ | .write4 _ _ | .write _ _ | .poke _ => .internalOp

/-- The form in which an instruction reaches the block. -/
inductive Fetched where
  /-- A line of host text (30_encoding.md R87), with the draw `allocOk` that an `INIT` takes (41_init.md R130). -/
  | line (allocOk : Bool) (text : List Byte)
  /-- A wire word, least significant byte first: two bytes for the 9-bit formats, one for the 5-bit format. -/
  | word (bytes : List Byte)
  deriving DecidableEq, Repr

/-- Why decoding refuses an input (30_encoding.md R86, R89). A refused line has no step. -/
inductive Reject where
  /-- R89: an unknown mnemonic. -/
  | unknownMnemonic
  /-- R89: a wrong operand count. -/
  | operandCount
  /-- An operand that is no number, or no value, of the host text (log 17). -/
  | malformedOperand
  /-- R89: a row or column (or another byte operand, log 18) outside 0..255. -/
  | byteRange
  /-- R89: a bit index outside 0..7. -/
  | bitIndexRange
  /-- R89: a width other than FOUR or EIGHT. -/
  | unknownWidth
  /-- R89: a PRINT_STR sequence with no 0x00. -/
  | unterminatedString
  /-- R89: an internal operation issued by the host. -/
  | internalOperation
  /-- R89: an operation before INIT (10_state.md R36): it names no session. -/
  | noSession
  /-- A one-byte word that is neither raw transfer of R83. -/
  | unknownRawTransfer
  /-- A two-byte word with a bit above bit 8 set: a bus word is 9 bits (R70). -/
  | reservedBits
  /-- A word of neither one nor two bytes. -/
  | wordLength
  deriving DecidableEq, Repr

/-- What decoding answers. -/
inductive Decoded where
  | ok (i : Instr)
  | bad (r : Reject)
  deriving DecidableEq, Repr

end Sys2Proof
end

