-- ==== Sys2Proof/WellFormed.lean ====
section
/-! DEFINITION. Well-formed instructions: those some host line or wire word stands for. -/

namespace Sys2Proof

/-- A value of an OPEN type as one operand of a host line: not empty, no comma in it, no space at either end
(30_encoding.md R87 separates operands by commas). -/
def tokenOk (t : Token) : Bool :=
  t != [] && !t.contains 0x2C#8 && t.head? != some 0x20#8 && t.getLast? != some 0x20#8

/-- The checks on an instruction as syntax. A function-set word 0x30 is the raw poke's (log 13); a string holds a
terminator (30_encoding.md R89); an OPEN value is one operand. -/
def WellFormed : Instr → Bool
  | .functionSet dl n f x => !(dl && !n && !f && x == 0#2)
  | .init cfg _ =>
    tokenOk cfg.fmt.screenSize && tokenOk cfg.fmt.rowWidth && tokenOk cfg.fmt.numPrecision && tokenOk cfg.fmt.numBase
  | .printStr s => s.contains 0x00#8
  | .printInt v => tokenOk v
  | .printDec v => tokenOk v
  | .clearWord | .returnHome _ | .entryModeSet _ _ | .displayControl _ _ _ | .cursorDisplayShift _ _ _
  | .setCgramAddress _ | .setDdramAddress _ | .dataWrite _ | .notEmittedZero | .syncPoke8 | .syncPoke4 | .to4Poke
  | .clear | .home | .setCursor _ _ | .displayOn | .displayOff | .cursorOn | .cursorOff | .blinkOn | .blinkOff
  | .ltr | .rtl | .autoscrollOn | .autoscrollOff | .scrollLeft | .scrollRight | .printChar _ | .pulse | .setRs _
  | .write8 _ _ | .write4 _ _ | .write _ _ | .poke _ => true

end Sys2Proof
end

