-- ==== Sys2Proof/Decode.lean ====
section
/-! DEFINITION. The decoder, total on any input and refusing by name, and after it the encoder: wire words by
30_encoding.md R70-R86, host lines by R87-R89. -/

namespace Sys2Proof

open Machine

/-! ### Wire words -/

/-- A bus word `{rs, b}` as an instruction: RS = 1 is a data write, else the leading 1 of `b` selects
(30_encoding.md R73). -/
def decodeBusWord (rs : Bool) (b : Byte) : Instr :=
  if rs then .dataWrite b
  else if b.getLsbD 7 then .setDdramAddress (b.extractLsb' 0 7)
  else if b.getLsbD 6 then .setCgramAddress (b.extractLsb' 0 6)
  else if b.getLsbD 5 then .functionSet (b.getLsbD 4) (b.getLsbD 3) (b.getLsbD 2) (b.extractLsb' 0 2)
  else if b.getLsbD 4 then .cursorDisplayShift (b.getLsbD 3) (b.getLsbD 2) (b.extractLsb' 0 2)
  else if b.getLsbD 3 then .displayControl (b.getLsbD 2) (b.getLsbD 1) (b.getLsbD 0)
  else if b.getLsbD 2 then .entryModeSet (b.getLsbD 1) (b.getLsbD 0)
  else if b.getLsbD 1 then .returnHome (b.getLsbD 0)
  else if b.getLsbD 0 then .clearWord
  else .notEmittedZero

/-- A 9-bit transfer: the block makes `{0, 0x30}` only as the raw poke of 30_encoding.md R83, so that word is the
SYNC poke (DEDUCED, log 13); every other one is a bus word. -/
def decodeTransfer9 (rs : Bool) (b : Byte) : Instr :=
  if !rs && b == syncPattern then .syncPoke8 else decodeBusWord rs b

/-- A wire word from its bytes, least significant first (spec/opcode_table.json's formats): one byte is a 5-bit raw
transfer, two bytes a 9-bit transfer. -/
def decodeWord : List Byte → Decoded
  | [b] => if b = 0x03 then .ok .syncPoke4 else if b = 0x02 then .ok .to4Poke else .bad .unknownRawTransfer
  | [lo, hi] =>
    if hi = 0 then .ok (decodeTransfer9 false lo)
    else if hi = 1 then .ok (decodeTransfer9 true lo)
    else .bad .reservedBits
  | _ => .bad .wordLength

/-! ### Lexing a host line (30_encoding.md R87; details DESIGN CHOICE, log 17) -/

/-- ASCII bytes of characters. -/
def chars (cs : List Char) : Token := cs.map fun c => BitVec.ofNat 8 c.toNat

/-- The space. -/
def chSpace : Byte := 0x20
/-- The double quote. -/
def chQuote : Byte := 0x22
/-- The comma. -/
def chComma : Byte := 0x2C
/-- The opening bracket. -/
def chOpen : Byte := 0x5B
/-- The closing bracket. -/
def chClose : Byte := 0x5D

/-- Drop leading spaces. -/
def trimLeft (t : Token) : Token := t.dropWhile (· == chSpace)

/-- Drop leading and trailing spaces. -/
def trim (t : Token) : Token := (trimLeft (trimLeft t).reverse).reverse

/-- Split at commas; the result is never empty. -/
def splitComma : Token → List Token
  | [] => [[]]
  | b :: bs =>
    if b == chComma then [] :: splitComma bs
    else match splitComma bs with
      | [] => [[b]]
      | t :: ts => (b :: t) :: ts

/-- The operands of the text after the mnemonic. -/
def operandsOf (rest : Token) : List Token :=
  if rest = [] then [] else (splitComma rest).map trim

/-- The value of a digit in base 16, if the byte is one. -/
def digitVal (b : Byte) : Option Nat :=
  let n := b.toNat
  if 0x30 ≤ n ∧ n ≤ 0x39 then some (n - 0x30)
  else if 0x41 ≤ n ∧ n ≤ 0x46 then some (n - 0x41 + 10)
  else if 0x61 ≤ n ∧ n ≤ 0x66 then some (n - 0x61 + 10)
  else none

/-- The value of a run of digits in a base, most significant first, on top of what stands before it. -/
def digitsVal (base acc : Nat) : Token → Option Nat
  | [] => some acc
  | b :: bs =>
    match digitVal b with
    | none => none
    | some d => if d < base then digitsVal base (acc * base + d) bs else none

/-- A number: `0x` and hexadecimal digits (00_scope.md R11), or decimal digits. -/
def parseNum (t : Token) : Option Nat :=
  match t with
  | [] => none
  | a :: ts =>
    match ts with
    | x :: h :: hs => if a = 0x30 ∧ x = 0x78 then digitsVal 16 0 (h :: hs) else digitsVal 10 0 t
    | _ => digitsVal 10 0 t

/-- A byte operand: a number in 0..255. -/
def parseByte (t : Token) : Except Reject Byte :=
  match parseNum t with
  | none => .error .malformedOperand
  | some n => if n < 256 then .ok (BitVec.ofNat 8 n) else .error .byteRange

/-- A bit index: a number in 0..7. -/
def parseBitIndex (t : Token) : Except Reject (BitVec 3) :=
  match parseNum t with
  | none => .error .malformedOperand
  | some n => if n < 8 then .ok (BitVec.ofNat 3 n) else .error .bitIndexRange

/-- A letter. -/
def isLetter (b : Byte) : Bool :=
  let n := b.toNat
  (0x41 ≤ n && n ≤ 0x5A) || (0x61 ≤ n && n ≤ 0x7A)

/-- A character of a name after its first: a letter, a decimal digit or `_`. -/
def isNameChar (b : Byte) : Bool :=
  let n := b.toNat
  isLetter b || (0x30 ≤ n && n ≤ 0x39) || n == 0x5F

/-- A symbolic name such as the `P0`, `DDR0` of 41_init.md R130's example. -/
def isName : Token → Bool
  | [] => false
  | b :: bs => isLetter b && bs.all isNameChar

/-- The number that the bytes of a name spell, most significant first; different names spell different numbers. -/
def nameHandle (t : Token) : Handle := t.foldl (fun n b => n * 256 + b.toNat) 0

/-- A port handle: a number, or a name, which stands for the number its bytes spell (DESIGN CHOICE, log 6). -/
def parseHandle (t : Token) : Except Reject Handle :=
  match parseNum t with
  | some n => .ok n
  | none => if isName t then .ok (nameHandle t) else .error .malformedOperand

/-- A bus width: `FOUR` or `EIGHT`. -/
def parseWidth (t : Token) : Except Reject BusWidth :=
  if t = chars ['F', 'O', 'U', 'R'] then .ok .fourBit
  else if t = chars ['E', 'I', 'G', 'H', 'T'] then .ok .eightBit
  else .error .unknownWidth

/-- A value of an OPEN type: any operand text that is not empty. -/
def parseToken (t : Token) : Except Reject Token :=
  if tokenOk t then .ok t else .error .malformedOperand

/-- A list of byte operands. -/
def parseBytes : List Token → Except Reject (List Byte)
  | [] => .ok []
  | t :: ts =>
    match parseByte t with
    | .error r => .error r
    | .ok b =>
      match parseBytes ts with
      | .error r => .error r
      | .ok bs => .ok (b :: bs)

/-- A text up to the first closing byte, and what follows that byte. -/
def cutAt (z : Byte) : Token → Option (Token × Token)
  | [] => none
  | b :: bs =>
    if b = z then some ([], bs)
    else match cutAt z bs with
      | none => none
      | some (inside, rest) => some (b :: inside, rest)

/-- The bytes of a quoted string: ASCII, followed by 0x00 (30_encoding.md R87). -/
def quotedBytes (inside : Token) : Except Reject (List Byte) :=
  if inside.all (fun b => !b.getLsbD 7) then .ok (inside ++ [terminator]) else .error .malformedOperand

/-- The bytes of a bracketed sequence, which holds a 0x00 (30_encoding.md R87, R89). -/
def bracketedBytes (inside : Token) : Except Reject (List Byte) :=
  match parseBytes (operandsOf (trim inside)) with
  | .error r => .error r
  | .ok bs => if bs.contains terminator then .ok bs else .error .unterminatedString

/-- One delimited operand and nothing after it: a comma there begins a second operand. -/
def soleOperand (cut : Option (Token × Token)) (value : Token → Except Reject (List Byte)) :
    Except Reject (List Byte) :=
  match cut with
  | none => .error .malformedOperand
  | some (inside, rest) =>
    match trimLeft rest with
    | [] => value inside
    | b :: _ => .error (if b = chComma then .operandCount else .malformedOperand)

/-- The operand of `PRINT_STR`: a quoted string or a bracketed byte sequence (30_encoding.md R87, R89); that it is one
operand is tested before its bytes (DESIGN CHOICE, log 37). -/
def parseString : Token → Except Reject (List Byte)
  | [] => .error .operandCount
  | c :: cs =>
    if c = chQuote then soleOperand (cutAt chQuote cs) quotedBytes
    else if c = chOpen then soleOperand (cutAt chClose cs) bracketedBytes
    else if (c :: cs).contains chComma then .error .operandCount
    else .error .malformedOperand

/-! ### Host lines -/

/-- The mnemonic that stands in a host line for an instruction (30_encoding.md R87); empty for a wire word. -/
def nameOf : Instr → Token
  | .init _ _ => chars ['I', 'N', 'I', 'T']
  | .clear => chars ['C', 'L', 'E', 'A', 'R']
  | .home => chars ['H', 'O', 'M', 'E']
  | .setCursor _ _ => chars ['S', 'E', 'T', 'C', 'U', 'R', 'S', 'O', 'R']
  | .displayOn => chars ['D', 'I', 'S', 'P', 'L', 'A', 'Y', '_', 'O', 'N']
  | .displayOff => chars ['D', 'I', 'S', 'P', 'L', 'A', 'Y', '_', 'O', 'F', 'F']
  | .cursorOn => chars ['C', 'U', 'R', 'S', 'O', 'R', '_', 'O', 'N']
  | .cursorOff => chars ['C', 'U', 'R', 'S', 'O', 'R', '_', 'O', 'F', 'F']
  | .blinkOn => chars ['B', 'L', 'I', 'N', 'K', '_', 'O', 'N']
  | .blinkOff => chars ['B', 'L', 'I', 'N', 'K', '_', 'O', 'F', 'F']
  | .ltr => chars ['L', 'T', 'R']
  | .rtl => chars ['R', 'T', 'L']
  | .autoscrollOn => chars ['A', 'U', 'T', 'O', 'S', 'C', 'R', 'O', 'L', 'L', '_', 'O', 'N']
  | .autoscrollOff => chars ['A', 'U', 'T', 'O', 'S', 'C', 'R', 'O', 'L', 'L', '_', 'O', 'F', 'F']
  | .scrollLeft => chars ['S', 'C', 'R', 'O', 'L', 'L', '_', 'L', 'E', 'F', 'T']
  | .scrollRight => chars ['S', 'C', 'R', 'O', 'L', 'L', '_', 'R', 'I', 'G', 'H', 'T']
  | .printChar _ => chars ['P', 'R', 'I', 'N', 'T', '_', 'C', 'H', 'A', 'R']
  | .printStr _ => chars ['P', 'R', 'I', 'N', 'T', '_', 'S', 'T', 'R']
  | .printInt _ => chars ['P', 'R', 'I', 'N', 'T', '_', 'I', 'N', 'T']
  | .printDec _ => chars ['P', 'R', 'I', 'N', 'T', '_', 'D', 'E', 'C']
  | .pulse => chars ['P', 'U', 'L', 'S', 'E']
  | .setRs _ => chars ['S', 'E', 'T', '_', 'R', 'S']
  | .write8 _ _ => chars ['W', 'R', 'I', 'T', 'E', '8']
  | .write4 _ _ => chars ['W', 'R', 'I', 'T', 'E', '4']
  | .write _ _ => chars ['W', 'R', 'I', 'T', 'E']
  | .poke _ => chars ['P', 'O', 'K', 'E']
  | .clearWord | .returnHome _ | .entryModeSet _ _ | .displayControl _ _ _ | .cursorDisplayShift _ _ _
  | .functionSet _ _ _ _ | .setCgramAddress _ | .setDdramAddress _ | .dataWrite _ | .notEmittedZero | .syncPoke8
  | .syncPoke4 | .to4Poke => []

/-- The host operations without operands (30_encoding.md R87). -/
def plainOps : List Instr :=
  [.clear, .home, .displayOn, .displayOff, .cursorOn, .cursorOff, .blinkOn, .blinkOff, .ltr, .rtl, .autoscrollOn,
   .autoscrollOff, .scrollLeft, .scrollRight]

/-- The internal operations' mnemonics, which the host may not issue (30_encoding.md R89). -/
def internalNames : List Token :=
  [nameOf .pulse, nameOf (.setRs false), nameOf (.write8 0 false), nameOf (.write4 0 false), nameOf (.write 0 false),
   nameOf (.poke 0)]

/-- An operand's result as the instruction made of it. -/
def Decoded.ofExcept {α : Type} (e : Except Reject α) (k : α → Decoded) : Decoded :=
  match e with
  | .error r => .bad r
  | .ok a => k a

/-- The operands of `SETCURSOR`. -/
def decodeSetCursor : List Token → Decoded
  | [r, c] => .ofExcept (parseByte r) fun row => .ofExcept (parseByte c) fun col => .ok (.setCursor row col)
  | _ => .bad .operandCount

/-- The operand of `PRINT_CHAR`. -/
def decodePrintChar : List Token → Decoded
  | [t] => .ofExcept (parseByte t) fun c => .ok (.printChar c)
  | _ => .bad .operandCount

/-- The operand of `PRINT_INT`. -/
def decodePrintInt : List Token → Decoded
  | [t] => .ofExcept (parseToken t) fun v => .ok (.printInt v)
  | _ => .bad .operandCount

/-- The operand of `PRINT_DEC`. -/
def decodePrintDec : List Token → Decoded
  | [t] => .ofExcept (parseToken t) fun v => .ok (.printDec v)
  | _ => .bad .operandCount

/-- The operands of `INIT` (30_encoding.md R87), with the draw `allocOk` of the call (41_init.md R130). The
first operand at fault, from left to right, names the reason (DESIGN CHOICE, log 37). -/
def decodeInit (allocOk : Bool) : List Token → Decoded
  | [dp, dd, cp, cd, rs, en, w, ss, rw, pr, nb] =>
    .ofExcept (parseHandle dp) fun dataPort =>
    .ofExcept (parseHandle dd) fun dataDdr =>
    .ofExcept (parseHandle cp) fun ctrlPort =>
    .ofExcept (parseHandle cd) fun ctrlDdr =>
    .ofExcept (parseBitIndex rs) fun rsBit =>
    .ofExcept (parseBitIndex en) fun enBit =>
    .ofExcept (parseWidth w) fun busWidth =>
    .ofExcept (parseToken ss) fun screenSize =>
    .ofExcept (parseToken rw) fun rowWidth =>
    .ofExcept (parseToken pr) fun numPrecision =>
    .ofExcept (parseToken nb) fun numBase =>
    .ok (.init
      { dataPort := dataPort, dataDdr := dataDdr, ctrlPort := ctrlPort, ctrlDdr := ctrlDdr, rsBit := rsBit,
        enBit := enBit, busWidth := busWidth,
        fmt := { screenSize := screenSize, rowWidth := rowWidth, numPrecision := numPrecision, numBase := numBase } }
      allocOk)
  | _ => .bad .operandCount

/-- A line of host text (30_encoding.md R87, R89). R89 gives no order among its reasons: a line with several faults is
refused for its mnemonic first, then for the operand count, then for its operands from left to right (DESIGN CHOICE,
log 37). -/
def decodeLine (allocOk : Bool) (text : List Byte) : Decoded :=
  let t := trim text
  let name := t.takeWhile (· != chSpace)
  let rest := trimLeft (t.dropWhile (· != chSpace))
  match plainOps.find? (fun i => nameOf i == name) with
  | some i => if rest = [] then .ok i else .bad .operandCount
  | none =>
    if name = chars ['I', 'N', 'I', 'T'] then decodeInit allocOk (operandsOf rest)
    else if name = chars ['S', 'E', 'T', 'C', 'U', 'R', 'S', 'O', 'R'] then decodeSetCursor (operandsOf rest)
    else if name = chars ['P', 'R', 'I', 'N', 'T', '_', 'C', 'H', 'A', 'R'] then decodePrintChar (operandsOf rest)
    else if name = chars ['P', 'R', 'I', 'N', 'T', '_', 'S', 'T', 'R'] then
      .ofExcept (parseString rest) fun s => .ok (.printStr s)
    else if name = chars ['P', 'R', 'I', 'N', 'T', '_', 'I', 'N', 'T'] then decodePrintInt (operandsOf rest)
    else if name = chars ['P', 'R', 'I', 'N', 'T', '_', 'D', 'E', 'C'] then decodePrintDec (operandsOf rest)
    else if internalNames.contains name then .bad .internalOperation
    else .bad .unknownMnemonic

/-- The decoder: a host line or a wire word. -/
def decode : Fetched → Decoded
  | .line allocOk text => decodeLine allocOk text
  | .word bytes => decodeWord bytes

/-! ### The encoder -/

/-- A flag's bits, if it is set (30_encoding.md R84). -/
def flagIf (v : Bool) (m : Byte) : Byte := if v then m else 0

/-- The byte `B` of a bus word or 9-bit raw transfer, by 30_encoding.md R74-R83. -/
def wordByte : Instr → Byte
  | .clearWord => codeClear
  | .returnHome x => codeHome ||| flagIf x 0x01
  | .entryModeSet id s => codeEntryMode ||| flagIf id flagID ||| flagIf s flagS
  | .displayControl d c b => codeDisplayControl ||| flagIf d flagD ||| flagIf c flagC ||| flagIf b flagB
  | .cursorDisplayShift sc rl x => codeShift ||| flagIf sc flagSC ||| flagIf rl flagRL ||| x.setWidth 8
  | .functionSet dl n f x => codeFunctionSet ||| flagIf dl flagDL ||| flagIf n flagN ||| flagIf f flagF ||| x.setWidth 8
  | .setCgramAddress a => codeSetCgram ||| a.setWidth 8
  | .setDdramAddress a => codeSetDdram ||| a.setWidth 8
  | .dataWrite d => d
  | .syncPoke8 => syncPattern
  | .syncPoke4 => 0x03
  | .to4Poke => 0x02
  | .notEmittedZero => 0x00
  | .init _ _ | .clear | .home | .setCursor _ _ | .displayOn | .displayOff | .cursorOn | .cursorOff | .blinkOn
  | .blinkOff | .ltr | .rtl | .autoscrollOn | .autoscrollOff | .scrollLeft | .scrollRight | .printChar _
  | .printStr _ | .printInt _ | .printDec _ | .pulse | .setRs _ | .write8 _ _ | .write4 _ _ | .write _ _ | .poke _ => 0

/-- A digit 0..15 in text. -/
def hexChar (d : Nat) : Byte := if d < 10 then BitVec.ofNat 8 (0x30 + d) else BitVec.ofNat 8 (0x41 + (d - 10))

/-- The hexadecimal digits of a number put in front of a text, with fuel. -/
def hexDigitsAux : Nat → Nat → Token → Token
  | 0, _, acc => acc
  | fuel + 1, n, acc =>
    if n < 16 then hexChar n :: acc else hexDigitsAux fuel (n / 16) (hexChar (n % 16) :: acc)

/-- A number in text: `0x` and its hexadecimal digits. -/
def encodeNum (n : Nat) : Token := 0x30 :: 0x78 :: hexDigitsAux (n + 1) n []

/-- Operands joined by commas. -/
def joinComma : List Token → Token
  | [] => []
  | [t] => t
  | t :: ts => t ++ chComma :: joinComma ts

/-- A bus width in text. -/
def encodeWidth : BusWidth → Token
  | .fourBit => chars ['F', 'O', 'U', 'R']
  | .eightBit => chars ['E', 'I', 'G', 'H', 'T']

/-- A flag in text. -/
def encodeBit (v : Bool) : Token := encodeNum v.toNat

/-- A mnemonic and its operands as a host line. -/
def lineOf (i : Instr) (operands : List Token) : Token := nameOf i ++ chSpace :: joinComma operands

/-- The operand of `PRINT_STR` as a bracketed byte sequence. -/
def encodeString (s : List Byte) : Token := chOpen :: (joinComma (s.map fun b => encodeNum b.toNat) ++ [chClose])

/-- The encoder: the host line or wire word that stands for an instruction. An internal operation is written as in
the spec's pseudocode, a line the host may not issue. -/
def encode : Instr → Fetched
  | .init c allocOk =>
    .line allocOk (lineOf (.init c allocOk)
      [encodeNum c.dataPort, encodeNum c.dataDdr, encodeNum c.ctrlPort, encodeNum c.ctrlDdr, encodeNum c.rsBit.toNat,
       encodeNum c.enBit.toNat, encodeWidth c.busWidth, c.fmt.screenSize, c.fmt.rowWidth, c.fmt.numPrecision,
       c.fmt.numBase])
  | .clear => .line true (nameOf .clear)
  | .home => .line true (nameOf .home)
  | .setCursor row col => .line true (lineOf (.setCursor row col) [encodeNum row.toNat, encodeNum col.toNat])
  | .displayOn => .line true (nameOf .displayOn)
  | .displayOff => .line true (nameOf .displayOff)
  | .cursorOn => .line true (nameOf .cursorOn)
  | .cursorOff => .line true (nameOf .cursorOff)
  | .blinkOn => .line true (nameOf .blinkOn)
  | .blinkOff => .line true (nameOf .blinkOff)
  | .ltr => .line true (nameOf .ltr)
  | .rtl => .line true (nameOf .rtl)
  | .autoscrollOn => .line true (nameOf .autoscrollOn)
  | .autoscrollOff => .line true (nameOf .autoscrollOff)
  | .scrollLeft => .line true (nameOf .scrollLeft)
  | .scrollRight => .line true (nameOf .scrollRight)
  | .printChar c => .line true (lineOf (.printChar c) [encodeNum c.toNat])
  | .printStr s => .line true (lineOf (.printStr s) [encodeString s])
  | .printInt v => .line true (lineOf (.printInt v) [v])
  | .printDec v => .line true (lineOf (.printDec v) [v])
  | .pulse => .line true (nameOf .pulse)
  | .setRs rs => .line true (lineOf (.setRs rs) [encodeBit rs])
  | .write8 b rs => .line true (lineOf (.write8 b rs) [encodeNum b.toNat, encodeBit rs])
  | .write4 b rs => .line true (lineOf (.write4 b rs) [encodeNum b.toNat, encodeBit rs])
  | .write b rs => .line true (lineOf (.write b rs) [encodeNum b.toNat, encodeBit rs])
  | .poke v => .line true (lineOf (.poke v) [encodeNum v.toNat])
  | .dataWrite d => .word [d, 0x01]
  | .syncPoke4 => .word [0x03]
  | .to4Poke => .word [0x02]
  | .clearWord => .word [wordByte .clearWord, 0x00]
  | .returnHome x => .word [wordByte (.returnHome x), 0x00]
  | .entryModeSet id s => .word [wordByte (.entryModeSet id s), 0x00]
  | .displayControl d c b => .word [wordByte (.displayControl d c b), 0x00]
  | .cursorDisplayShift sc rl x => .word [wordByte (.cursorDisplayShift sc rl x), 0x00]
  | .functionSet dl n f x => .word [wordByte (.functionSet dl n f x), 0x00]
  | .setCgramAddress a => .word [wordByte (.setCgramAddress a), 0x00]
  | .setDdramAddress a => .word [wordByte (.setDdramAddress a), 0x00]
  | .notEmittedZero => .word [wordByte .notEmittedZero, 0x00]
  | .syncPoke8 => .word [wordByte .syncPoke8, 0x00]

/-! ### Words as spec/opcode_table.json numbers their bits -/

/-- The bytes of a table word, least significant first: one for the 5-bit format, two for the 9-bit formats. -/
def tableBytes (nbits w : Nat) : List Byte :=
  if nbits = 0 then [] else if nbits ≤ 8 then [BitVec.ofNat 8 w] else [BitVec.ofNat 8 w, BitVec.ofNat 8 (w / 256)]

/-- The instruction the decoder reads from a word numbered as spec/opcode_table.json numbers it. -/
def decodeTableWord (nbits w : Nat) : Option Instr :=
  match decodeWord (tableBytes nbits w) with
  | .ok i => some i
  | .bad _ => none

end Sys2Proof
end

