-- ==== Sys2Proof/Machine/State.lean ====
section
/-! DEFINITION. The state of the machine as plain data (10_state.md), the state at reset, and the reasons a step can
stop. -/

namespace Sys2Proof.Machine

/-- The cache registers (10_state.md R24). -/
inductive CacheReg where
  | dc
  | em
  | fs
  deriving DecidableEq, Repr

/-- The micro-steps (00_scope.md R14). -/
inductive MicroStep where
  /-- `PW(h, m, v)`: masked read-modify-write of a host register. -/
  | pw (h : Handle) (m v : Byte)
  /-- `DLY(t)`: at least `t` elapses. -/
  | dly (t : Duration)
  /-- Enter the critical section. -/
  | cse
  /-- Restore the interrupt enable. -/
  | csr
  /-- `CW(r, v)`: write a cache register. -/
  | cw (r : CacheReg) (v : Byte)
  deriving DecidableEq, Repr

/-- `SEQ` (10_state.md R30). -/
inductive Seq where
  | idle
  | busy (ms : List MicroStep)
  deriving DecidableEq, Repr

/-- The trace events of 00_scope.md R14; `CW` makes none. -/
inductive Event where
  /-- A port write, with the value the register holds after it. -/
  | pw (h : Handle) (v : Byte)
  | dly (t : Duration)
  | cse
  | csr
  deriving DecidableEq, Repr

/-- The data lines of a transfer: eight of them, or `DATAPORT[7:4]` (20_memory.md R58). -/
inductive DataLines where
  | byte (b : Byte)
  | nibble (n : Nibble)
  deriving DecidableEq, Repr

/-- A latched transfer `{RS, D}` (20_memory.md R58) and the session whose pulse latched it. -/
structure Transfer where
  session : Nat
  rs : Bool
  data : DataLines
  deriving DecidableEq, Repr

/-- A valid session's registers: configuration (10_state.md R21), caches (R24; `none` is R24's "no value") and the
receiver behind it (R34). -/
structure SessionRegs where
  cfg : SessionConfig
  dc : Option Byte
  em : Option Byte
  fs : Option Byte
  rx : Receiver
  deriving DecidableEq, Repr

/-- A constructed session: `VALID = 0`, whose other registers hold no value, or `VALID = 1` (10_state.md R21). -/
inductive Session where
  | invalid
  | valid (r : SessionRegs)
  deriving DecidableEq, Repr

/-- What the world outside the block does next (log 22, 26). -/
inductive HostEvent where
  /-- The host issues an operation (or a wire word, log 12) to the session with this number. -/
  | issue (session : Nat) (f : Fetched)
  /-- A foreign writer's masked write of a host register (20_memory.md R60). -/
  | foreign (h : Handle) (m v : Byte)
  deriving DecidableEq, Repr

/-- The machine's state. -/
structure State where
  /-- The host's port and direction registers: (handle, value) pairs in canonical form (10_state.md R33). -/
  ports : List Host.Cell
  /-- `IE`, the host's interrupt enable (R32). -/
  ie : Bool
  /-- `TOK`, the token of the critical section (R32). -/
  tok : Bool
  /-- `SEQ`, the sequencer (R30). -/
  seq : Seq
  /-- The sessions, in order of construction (00_scope.md R10, 10_state.md R36). -/
  sessions : List Session
  /-- The session that the operation in progress names (model's own, log 7). -/
  cur : Nat
  /-- The timing parameters (00_scope.md R7, 10_state.md R37; log 10). -/
  timing : Timing
  /-- The trace (00_scope.md R14, 20_memory.md R59), oldest event first. -/
  trace : List Event
  /-- The transfers latched so far (20_memory.md R58), oldest first. -/
  latched : List Transfer
  /-- What the outside does next, in order (model's own, log 26). -/
  input : List HostEvent
  deriving DecidableEq, Repr

/-- Faults: both are safe (the model stops where the spec gives no meaning). -/
inductive Fault where
  /-- A toggle reads a cache register that holds no value; raised by the toggles (10_state.md R24: "a read is a fault
  in the model"). Safe. -/
  | cacheUnset
  /-- A micro-step is due and the current session is not valid; raised by the sequencer in states no run reaches
  (log 30). Safe. -/
  | orphanSequence
  deriving DecidableEq, Repr

/-- Refusals: the model gives the input no meaning. Each is safe. -/
inductive Refusal where
  /-- An instruction without a meaning yet; raised by `exec`'s arm. Safe. -/
  | notModelled (mnemonic : String)
  /-- Host text or a wire word that is refused, with the reason's name and the line (30_encoding.md R89: "refuses (by
  name and line)"); raised by `step`. Safe. -/
  | rejected (r : Reject) (line : Fetched)
  /-- An operation that names no session; raised by every operation but INIT (10_state.md R36), and reported by `step`
  with its line, as `rejected .noSession`. Safe. -/
  | unconstructed
  /-- An operation started while `SEQ` is busy has no step; raised by every operation (10_state.md R31). Safe. -/
  | sequencerBusy
  /-- `refuse(BadConfiguration)`; raised by INIT (41_init.md R130, 10_state.md R23, 70_reset_and_hazards.md R236).
  Safe. -/
  | badConfiguration
  /-- A wire word the block never emits; raised by the wire words (30_encoding.md R86). Safe. -/
  | notEmitted
  /-- A WRITE variant of the other bus width; raised by WRITE8 and WRITE4 (40_bus_and_pulse.md R105). Safe. -/
  | wrongWidth
  /-- A string with no terminator; raised by PRINT_STR (30_encoding.md R89). Safe. -/
  | unterminatedString
  /-- A foreign write while `IE = 0` has no step; raised by `step` (20_memory.md R60). Safe. -/
  | foreignMasked
  /-- A foreign write to an owned bit, a broken host duty, has no move; raised by `step` (60_exceptions.md R213 H-3).
  Safe. -/
  | foreignOwnedBit
  deriving DecidableEq, Repr

/-- The machine before any INIT (70_reset_and_hazards.md R231): no session, `SEQ` idle, default timings; the OPEN
`IE0` and `PORT0` and the valueless `TOK` at the values of log 2, 3, 4 (DESIGN CHOICE). -/
def State.reset : State where
  ports := []
  ie := true
  tok := false
  seq := .idle
  sessions := []
  cur := 0
  timing := defaultTiming
  trace := []
  latched := []
  input := []

end Sys2Proof.Machine
end

