-- ==== Sys2Proof/Machine/Operands.lean ====
section
/-! DEFINITION. Operand assembly: masks of a configuration (00_scope.md R9), nibbles of a byte (30_encoding.md R84),
the cursor address (42_commands.md R163, R164), the text of a print operation (R178-R180), and the validity of
configurations and timings (10_state.md R23, 70_reset_and_hazards.md R236). -/

namespace Sys2Proof.Machine

/-- The mask of one bit. -/
def bitMask (i : BitVec 3) : Byte := 1#8 <<< i.toNat

/-- `RSM` (00_scope.md R9). -/
def rsMask (c : SessionConfig) : Byte := bitMask c.rsBit

/-- `ENM` (R9). -/
def enMask (c : SessionConfig) : Byte := bitMask c.enBit

/-- `BUSM` of a width (R9). -/
def widthMask : BusWidth → Byte
  | .fourBit => 0xF0
  | .eightBit => 0xFF

/-- `BUSM` (R9). -/
def busMask (c : SessionConfig) : Byte := widthMask c.busWidth

/-- `SHARED` (R9). -/
def shared (c : SessionConfig) : Bool := c.dataPort == c.ctrlPort

/-- The bits of the register `h` that a session with this configuration owns (10_state.md R33). -/
def ownedMask (c : SessionConfig) (h : Handle) : Byte :=
  (if h = c.dataPort then busMask c else 0) ||| (if h = c.ctrlPort then rsMask c ||| enMask c else 0) |||
  (if h = c.dataDdr then busMask c else 0) ||| (if h = c.ctrlDdr then rsMask c ||| enMask c else 0)

/-- `valid_config` (10_state.md R23); the bit indices are in 0..7 by their type. -/
def validConfig (c : SessionConfig) : Bool :=
  c.rsBit != c.enBit &&
  (!shared c || (rsMask c ||| enMask c) &&& busMask c == 0) &&
  (shared c == (c.dataDdr == c.ctrlDdr)) &&
  (shared c ||
    (c.dataPort != c.ctrlPort && c.dataPort != c.dataDdr && c.dataPort != c.ctrlDdr && c.ctrlPort != c.dataDdr &&
     c.ctrlPort != c.ctrlDdr && c.dataDdr != c.ctrlDdr))

/-- `valid_timing` (70_reset_and_hazards.md R236). -/
def validTiming (t : Timing) : Bool :=
  minimumTiming.tPowerOn ≤ t.tPowerOn && minimumTiming.tInit1 ≤ t.tInit1 && minimumTiming.tInit2 ≤ t.tInit2 &&
  minimumTiming.tESetup ≤ t.tESetup && minimumTiming.tEHigh ≤ t.tEHigh && minimumTiming.tExec ≤ t.tExec &&
  minimumTiming.tLong ≤ t.tLong

/-- The data-port value of the first 4-bit transfer: `b[7:4]` on bits 7:4 (30_encoding.md R84). -/
def highNibble (b : Byte) : Byte := b &&& 0xF0

/-- The data-port value of the second 4-bit transfer: `b[3:0]` on bits 7:4 (R84). -/
def lowNibble (b : Byte) : Byte := (b <<< 4) &&& 0xF0

/-- A masked update (00_scope.md R12). -/
def masked (old m v : Byte) : Byte := (old &&& ~~~m) ||| (v &&& m)

/-- The 8-bit cursor address, wrapping modulo 256 (42_commands.md R164). -/
def cursorAddress (row col : Byte) : Byte := rowBase row + col

/-- The set-DDRAM-address byte of SETCURSOR (R164, 30_encoding.md R81). -/
def cursorByte (row col : Byte) : Byte := codeSetDdram ||| cursorAddress row col

/-- The bytes of a string that are sent: those before the first terminator (42_commands.md R178). -/
def stringText (s : List Byte) : List Byte := s.takeWhile (· != terminator)

/-- The terminated text of `PRINT_INT` (R179). -/
def intText (c : SessionConfig) (v : Token) : List Byte := Config.fmtInt c.fmt v ++ [terminator]

/-- The terminated text of `PRINT_DEC` (R180). -/
def decText (c : SessionConfig) (v : Token) : List Byte := Config.fmtDec c.fmt v ++ [terminator]

/-- A duration in microseconds. -/
def micros : Duration → Nat
  | .us n => n
  | .ms n => n * 1000

end Sys2Proof.Machine
end

