-- ==== Sys2Proof/Machine/Flags.lean ====
section
/-! DEFINITION. Flags. The block has no status flags or condition codes (10_state.md R29); its flag-like bits are the
configuration flags inside the cache registers, computed here (30_encoding.md R84, 42_commands.md R181). -/

namespace Sys2Proof.Machine

/-- The new byte of a toggle: the flag OR-ed in, or cleared (42_commands.md R181). -/
def toggled (old flag : Byte) (set : Bool) : Byte := if set then old ||| flag else old &&& ~~~flag

/-- The value of a cache register (10_state.md R24). -/
def cacheOf (r : SessionRegs) : CacheReg → Option Byte
  | .dc => r.dc
  | .em => r.em
  | .fs => r.fs

/-- A session's registers with one cache register written. -/
def setCache (r : SessionRegs) (reg : CacheReg) (v : Byte) : SessionRegs :=
  match reg with
  | .dc => { r with dc := some v }
  | .em => { r with em := some v }
  | .fs => { r with fs := some v }

end Sys2Proof.Machine
end

