-- ==== Sys2Proof/Machine/Ops.lean ====
section
/-! DEFINITION. The named operations: host registers as memory, field updates of the state, the critical section, the
micro-steps, the micro-step lists of the internal operations, starting an operation, and what the outside does. -/

namespace Sys2Proof.Machine

/-! ### Host registers -/

/-- What a host register that is not listed holds (DESIGN CHOICE, log 2). -/
def Memory.unlisted (_ : Handle) : Byte := 0x00

/-- The value of a host register. -/
def Memory.read : List Host.Cell → Handle → Byte
  | [], a => Memory.unlisted a
  | (b, w) :: m, a => if a = b then w else Memory.read m a

/-- Put a cell before the first one of a larger handle. -/
def Memory.insert : List Host.Cell → Handle → Byte → List Host.Cell
  | [], a, v => [(a, v)]
  | (b, w) :: m, a, v => if a < b then (a, v) :: (b, w) :: m else (b, w) :: Memory.insert m a v

/-- Write a host register: its old cell out, and a new one in unless it says what an unlisted register holds. -/
def Memory.write (m : List Host.Cell) (a : Handle) (v : Byte) : List Host.Cell :=
  let rest := m.filter fun c => c.1 != a
  if v = Memory.unlisted a then rest else Memory.insert rest a v

/-- The canonical form: handles strictly rising, no cell that says what an unlisted register holds. -/
abbrev Memory.wf (m : List Host.Cell) : Prop :=
  m.Pairwise (fun x y => x.1 < y.1) ∧ ∀ c ∈ m, c.2 ≠ Memory.unlisted c.1

/-! ### Field updates -/

/-- `ports` replaced. -/
def State.withPorts (s : State) (x : List Host.Cell) : State := { s with ports := x }
/-- `ie` replaced. -/
def State.withIe (s : State) (x : Bool) : State := { s with ie := x }
/-- `tok` replaced. -/
def State.withTok (s : State) (x : Bool) : State := { s with tok := x }
/-- `seq` replaced. -/
def State.withSeq (s : State) (x : Seq) : State := { s with seq := x }
/-- `sessions` replaced. -/
def State.withSessions (s : State) (x : List Session) : State := { s with sessions := x }
/-- `cur` replaced. -/
def State.withCur (s : State) (x : Nat) : State := { s with cur := x }
/-- `input` replaced. -/
def State.withInput (s : State) (x : List HostEvent) : State := { s with input := x }
/-- A trace event recorded. -/
def State.record (s : State) (e : Event) : State := { s with trace := s.trace ++ [e] }
/-- A latched transfer recorded. -/
def State.latch (s : State) (t : Transfer) : State := { s with latched := s.latched ++ [t] }

/-- `PORT[h]` (00_scope.md R12). -/
def State.port (s : State) (h : Handle) : Byte := Memory.read s.ports h

/-- The current session's registers, if it is valid. -/
def State.live (s : State) : Option SessionRegs :=
  match s.sessions[s.cur]? with
  | some (.valid r) => some r
  | _ => none

/-- The current session's registers replaced. -/
def State.withLive (s : State) (r : SessionRegs) : State := s.withSessions (s.sessions.set s.cur (.valid r))

/-- The micro-steps still to perform. -/
def Seq.steps : Seq → List MicroStep
  | .idle => []
  | .busy ms => ms

/-- `Busy(ms)`, or `Idle` when no micro-step is left (10_state.md R31 (c)). -/
def Seq.ofSteps : List MicroStep → Seq
  | [] => .idle
  | m :: ms => .busy (m :: ms)

/-! ### The critical section: the analogue of entering and leaving a handler (60_exceptions.md R204, R206, R207) -/

/-- `CSE`: `TOK <- IE; IE <- 0`. -/
def csEnter (s : State) : State := (s.withTok s.ie).withIe false

/-- `CSR`: `IE <- TOK`. -/
def csRestore (s : State) : State := s.withIe s.tok

/-! ### Transfers -/

/-- The data lines of a session's data port (20_memory.md R58). -/
def dataLines (c : SessionConfig) (d : Byte) : DataLines :=
  match c.busWidth with
  | .eightBit => .byte d
  | .fourBit => .nibble (d.extractLsb' 4 4)

/-- The transfer that a falling edge latches: RS and the data lines as the ports hold them (20_memory.md R58). -/
def transferOf (s : State) (c : SessionConfig) : Transfer :=
  { session := s.cur, rs := (s.port c.ctrlPort).getLsbD c.rsBit.toNat, data := dataLines c (s.port c.dataPort) }

/-- Whether a write of the register `h` from `old` to `new` is a falling edge of the session's E line. -/
def fallingEdge (c : SessionConfig) (h : Handle) (old new : Byte) : Bool :=
  h == c.ctrlPort && old.getLsbD c.enBit.toNat && !new.getLsbD c.enBit.toNat

/-- A session after another session wrote the masked bits of `h`: if it owns some of them (host duty H-3 broken,
70_reset_and_hazards.md R235), its receiver's state is any value from here on (93_implementation_defined.md I3, I16;
log 11, 23). -/
def disturbed (h : Handle) (m : Byte) (k n : Nat) : Session → Session
  | .invalid => .invalid
  | .valid r => if m &&& ownedMask r.cfg h = 0 then .valid r else .valid { r with rx := Config.rxFree k n }

/-- The sessions, numbered from `k` on, after a write of the session `cur`. -/
def disturbOthers (h : Handle) (m : Byte) (cur n : Nat) : Nat → List Session → List Session
  | _, [] => []
  | k, x :: xs => (if k = cur then x else disturbed h m k n x) :: disturbOthers h m cur n (k + 1) xs

/-- Record the transfer of a falling edge (every one, log 19); the receiver's state after it is any value (log 11). -/
def latchEdge (h : Handle) (old new : Byte) (s : State) : State :=
  match s.live with
  | none => s
  | some r =>
    if fallingEdge r.cfg h old new then
      (s.latch (transferOf s r.cfg)).withLive { r with rx := Config.rxFree s.cur s.trace.length }
    else s

/-- The bits of an output register that drive pins, and their levels: those whose direction bit is 1
(10_state.md R33). -/
def drivenPins (s : State) (port ddr : Handle) : Byte × Byte := (s.port ddr, s.port port &&& s.port ddr)

/-! ### Micro-steps (00_scope.md R14) -/

/-- The masked update of one register, recorded; to a session that owns one of its bits too it is a foreign write. -/
def registerWrite (h : Handle) (m v : Byte) (s : State) : State :=
  let new := masked (s.port h) m v
  ((s.withPorts (Memory.write s.ports h new)).withSessions
    (disturbOthers h m s.cur (s.trace.length + 1) 0 s.sessions)).record (.pw h new)

/-- `PW(h, m, v)`: one indivisible read-modify-write, always performed and recorded (20_memory.md R55). -/
def portWrite (h : Handle) (m v : Byte) (s : State) : State :=
  latchEdge h (s.port h) (masked (s.port h) m v) (registerWrite h m v s)

/-- `CW(r, v)` of the current session (10_state.md R24). -/
def cacheWrite (reg : CacheReg) (v : Byte) (s : State) : State :=
  match s.live with
  | none => s
  | some r => s.withLive (setCache r reg v)

/-- One micro-step. -/
def perform (m : MicroStep) (s : State) : State :=
  match m with
  | .pw h m v => portWrite h m v s
  | .dly t => s.record (.dly t)
  | .cse => (csEnter s).record .cse
  | .csr => (csRestore s).record .csr
  | .cw reg v => cacheWrite reg v s

/-- A list of micro-steps, in order (20_memory.md R59). -/
def performAll : List MicroStep → State → State
  | [], s => s
  | m :: ms, s => performAll ms (perform m s)

/-- The state in which the operation in progress returns: its remaining micro-steps performed, `SEQ` idle
(10_state.md R31). -/
def State.complete (s : State) : State := (performAll s.seq.steps s).withSeq .idle

/-- One step of a busy sequencer: perform the head micro-step and remove it; idle when none is left
(10_state.md R31). -/
def sequencerStep (ms : List MicroStep) (s : State) : Host.Outcome State Fault Refusal :=
  match ms with
  | [] => .next (s.withSeq .idle)
  | m :: rest =>
    match s.live with
    | none => .fault .orphanSequence
    | some _ => .next ((perform m s).withSeq (Seq.ofSteps rest))

/-- The least time a micro-step list takes, in µs (70_reset_and_hazards.md R240, R247). -/
def minMicros : List MicroStep → Nat
  | [] => 0
  | .dly t :: ms => micros t + minMicros ms
  | .pw _ _ _ :: ms => minMicros ms
  | .cse :: ms => minMicros ms
  | .csr :: ms => minMicros ms
  | .cw _ _ :: ms => minMicros ms

/-! ### The micro-step lists of the internal operations (40_bus_and_pulse.md) -/

/-- `PULSE` (R100). -/
def pulseSteps (c : SessionConfig) (t : Timing) : List MicroStep :=
  [.pw c.ctrlPort (enMask c) 0, .dly (.us t.tESetup), .pw c.ctrlPort (enMask c) (enMask c), .dly (.us t.tEHigh),
   .pw c.ctrlPort (enMask c) 0, .dly (.us t.tExec)]

/-- `SET_RS` (R102). -/
def setRsSteps (c : SessionConfig) (rs : Bool) : List MicroStep :=
  [.pw c.ctrlPort (rsMask c) (if rs then rsMask c else 0)]

/-- `WRITE8` (R103). -/
def write8Steps (c : SessionConfig) (t : Timing) (b : Byte) (rs : Bool) : List MicroStep :=
  setRsSteps c rs ++ [.pw c.dataPort 0xFF b] ++ pulseSteps c t

/-- `WRITE4` (R104). -/
def write4Steps (c : SessionConfig) (t : Timing) (b : Byte) (rs : Bool) : List MicroStep :=
  setRsSteps c rs ++ [.pw c.dataPort 0xF0 (highNibble b)] ++ pulseSteps c t ++
  [.pw c.dataPort 0xF0 (lowNibble b)] ++ pulseSteps c t

/-- `WRITE`, dispatched on `BUSWIDTH` (R105). -/
def writeSteps (c : SessionConfig) (t : Timing) (b : Byte) (rs : Bool) : List MicroStep :=
  match c.busWidth with
  | .eightBit => write8Steps c t b rs
  | .fourBit => write4Steps c t b rs

/-- `POKE` (R107): no SET_RS. -/
def pokeSteps (c : SessionConfig) (t : Timing) (v : Byte) : List MicroStep :=
  .pw c.dataPort (busMask c) v :: pulseSteps c t

/-- The body of `PRINT_STR` (42_commands.md R178): one data write for each byte of the text. -/
def textSteps (c : SessionConfig) (t : Timing) : List Byte → List MicroStep
  | [] => []
  | b :: bs => writeSteps c t b true ++ textSteps c t bs

/-- A body in its one critical section (20_memory.md R61). -/
def bracketed (body : List MicroStep) : List MicroStep := .cse :: (body ++ [.csr])

/-! ### Starting an operation -/

/-- `SEQ <- Busy(ms)` (10_state.md R31 (a)). -/
def start (s : State) (ms : List MicroStep) : Host.Outcome State Fault Refusal := .next (s.withSeq (.ofSteps ms))

/-- The wrapper of every operation on an existing session (10_state.md R31, R36; 42_commands.md R160): no step while
the sequencer is busy, refused with no session, nothing on an invalid one. -/
def onSession (s : State) (k : SessionRegs → Host.Outcome State Fault Refusal) : Host.Outcome State Fault Refusal :=
  match s.seq with
  | .busy _ => .refused .sequencerBusy
  | .idle =>
    match s.sessions[s.cur]? with
    | none => .refused .unconstructed
    | some .invalid => .next s
    | some (.valid r) => k r

/-- `PUBLIC(op)` (42_commands.md R160) with a body fixed by configuration and timing. -/
def startPublic (s : State) (body : SessionConfig → Timing → List MicroStep) : Host.Outcome State Fault Refusal :=
  onSession s fun r => start s (bracketed (body r.cfg s.timing))

/-- `TOGGLE(r, flag, set)` in the wrapper (42_commands.md R160, R181): the new byte is computed at the start, sent, and
only then cached. A cache register without a value stops it, as 10_state.md R24 says: "no value (a read is a fault in
the model; ...)" (log 27). -/
def startToggle (s : State) (reg : CacheReg) (flag : Byte) (set : Bool) : Host.Outcome State Fault Refusal :=
  onSession s fun r =>
    match cacheOf r reg with
    | none => .fault .cacheUnset
    | some old =>
      start s (bracketed (writeSteps r.cfg s.timing (toggled old flag set) false ++
        [.cw reg (toggled old flag set)]))

/-- An internal operation (40_bus_and_pulse.md, log 16): its micro-steps come before what is left of the operation
that calls it. -/
def startInternal (s : State) (body : SessionConfig → Timing → List MicroStep) :
    Host.Outcome State Fault Refusal :=
  match s.sessions[s.cur]? with
  | none => .refused .unconstructed
  | some .invalid => .next s
  | some (.valid r) => start s (body r.cfg s.timing ++ s.seq.steps)

/-- A wire word the block emits, as one transaction (20_memory.md R61, log 12). -/
def emitWord (s : State) (body : SessionConfig → Timing → List MicroStep) : Host.Outcome State Fault Refusal :=
  startPublic s body

/-- The report of a refused host line (30_encoding.md R89): an operation before INIT is refused with its line. -/
def reportLine (f : Fetched) (o : Host.Outcome State Fault Refusal) : Host.Outcome State Fault Refusal :=
  match o with
  | .next t => .next t
  | .fault x => .fault x
  | .refused .unconstructed => .refused (.rejected .noSession f)
  | .refused x => .refused x

/-! ### What the outside does -/

/-- The bits of a host register that some valid session owns (10_state.md R33). -/
def sessionsOwn (h : Handle) : List Session → Byte
  | [] => 0
  | .invalid :: ss => sessionsOwn h ss
  | .valid r :: ss => ownedMask r.cfg h ||| sessionsOwn h ss

/-- A foreign write (20_memory.md R60, 60_exceptions.md R213 H-3): only while `IE = 1`, only to bits no session owns,
one masked update; it is no event of the block's trace. -/
def foreignWrite (h : Handle) (m v : Byte) (s : State) : Host.Outcome State Fault Refusal :=
  if s.ie = false then .refused .foreignMasked
  else if m &&& sessionsOwn h s.sessions ≠ 0 then .refused .foreignOwnedBit
  else .next (s.withPorts (Memory.write s.ports h (masked (s.port h) m v)))

/-! ### Placing a wire word where it is fetched next (log 26) -/

/-- The configuration `EX8` / `EX4` of 40_bus_and_pulse.md with handles 0 to 3 and default caches: the session a wire
word is placed for when the machine has none. -/
def exampleSession (w : BusWidth) (n : Nat) : SessionRegs where
  cfg :=
    { dataPort := 0, dataDdr := 1, ctrlPort := 2, ctrlDdr := 3, rsBit := 0, enBit := 1, busWidth := w,
      fmt := { screenSize := [0x30], rowWidth := [0x30], numPrecision := [0x30], numBase := [0x30] } }
  dc := some initDC
  em := some initEM
  fs := some (fsv w)
  rx := Config.rxFree n 0

/-- The bus width of the sessions that emit a table word: FourBit for a 4-bit raw transfer and a function set with
`DL = 0`. -/
def tableWidth (nbits w : Nat) : BusWidth :=
  match decodeTableWord nbits w with
  | some .syncPoke4 => .fourBit
  | some .to4Poke => .fourBit
  | some (.functionSet false _ _ _) => .fourBit
  | _ => .eightBit

/-- The state with a wire word next: the sequencer idle, a valid session to send it for (the current one, or a new
one), and the word in front of the input. -/
def placeWord (s : State) (nbits w : Nat) : State :=
  match s.live with
  | some _ =>
    { s with seq := .idle, input := .issue s.cur (.word (tableBytes nbits w)) :: s.input }
  | none =>
    { s with
      seq := .idle
      sessions := s.sessions ++ [.valid (exampleSession (tableWidth nbits w) s.sessions.length)]
      input := .issue s.sessions.length (.word (tableBytes nbits w)) :: s.input }

end Sys2Proof.Machine
end

