-- ==== Sys2Proof/Machine/BusWords.lean ====
section
/-! DEFINITION. The wire words: bus words (30_encoding.md R74-R82, R86) and raw pokes (R83). The meaning of a word is
that the block emits it, as one transaction (log 12): the WRITE (or POKE) of its byte with don't-care bits 0 (R85), the
long wait after clear and home, and the cache register that the spec says the byte is the new value of. A word the
block never emits has no meaning (R86). -/

namespace Sys2Proof.Machine

/-- The body of emitting an instruction byte. -/
def instructionBody (b : Byte) (c : SessionConfig) (t : Timing) : List MicroStep := writeSteps c t b false

/-- The body of emitting an instruction byte that the long settle time follows (R74, R75). -/
def longBody (b : Byte) (c : SessionConfig) (t : Timing) : List MicroStep :=
  writeSteps c t b false ++ [.dly (.ms t.tLong)]

/-- The body of emitting a configuration byte, cached after its transmission (10_state.md R24, R28). -/
def cachedBody (reg : CacheReg) (b : Byte) (c : SessionConfig) (t : Timing) : List MicroStep :=
  writeSteps c t b false ++ [.cw reg b]

/-- CLEAR as a bus word (R74). -/
def execClearWord (s : State) : Host.Outcome State Fault Refusal := emitWord s (longBody codeClear)

/-- RETURN_HOME (R75): always sent as exactly 0x02, whatever the don't-care bit. -/
def execReturnHome (_x : Bool) (s : State) : Host.Outcome State Fault Refusal := emitWord s (longBody codeHome)

/-- ENTRY_MODE_SET (R76): the byte is the new `EM`. -/
def execEntryModeSet (id sh : Bool) (s : State) : Host.Outcome State Fault Refusal :=
  emitWord s (cachedBody .em (codeEntryMode ||| flagIf id flagID ||| flagIf sh flagS))

/-- DISPLAY_CONTROL (R77): the byte is the new `DC`. -/
def execDisplayControl (d c b : Bool) (s : State) : Host.Outcome State Fault Refusal :=
  emitWord s (cachedBody .dc (codeDisplayControl ||| flagIf d flagD ||| flagIf c flagC ||| flagIf b flagB))

/-- CURSOR_DISPLAY_SHIFT (R78): only the display shifts are emitted (R86), don't-care bits as 0. -/
def execCursorDisplayShift (sc rl : Bool) (_x : BitVec 2) (s : State) : Host.Outcome State Fault Refusal :=
  if sc then emitWord s (instructionBody (codeShift ||| flagSC ||| flagIf rl flagRL)) else .refused .notEmitted

/-- FUNCTION_SET (R79): the bytes 0x28 and 0x38 are emitted and no other (R86), and each by the sessions of its width
(41_init.md R136; log 14). -/
def execFunctionSet (dl n f : Bool) (x : BitVec 2) (s : State) : Host.Outcome State Fault Refusal :=
  let b := codeFunctionSet ||| flagIf dl flagDL ||| flagIf n flagN ||| flagIf f flagF ||| x.setWidth 8
  if b = fsv .fourBit ∨ b = fsv .eightBit then
    onSession s fun r =>
      if b = fsv r.cfg.busWidth then start s (bracketed (cachedBody .fs b r.cfg s.timing)) else .refused .notEmitted
  else .refused .notEmitted

/-- SET_CGRAM_ADDRESS (R80): never emitted. -/
def execSetCgramAddress (_a : BitVec 6) (_s : State) : Host.Outcome State Fault Refusal := .refused .notEmitted

/-- SET_DDRAM_ADDRESS (R81). -/
def execSetDdramAddress (a : BitVec 7) (s : State) : Host.Outcome State Fault Refusal :=
  emitWord s (instructionBody (codeSetDdram ||| a.setWidth 8))

/-- DATA_WRITE (R82). -/
def execDataWrite (d : Byte) (s : State) : Host.Outcome State Fault Refusal :=
  emitWord s fun c t => writeSteps c t d true

/-- RS = 0, B = 0x00 (R86): no instruction, never emitted. -/
def execNotEmittedZero (_s : State) : Host.Outcome State Fault Refusal := .refused .notEmitted

/-- A raw poke of a format that exists in one bus width only (R83), as a transaction of its own (DESIGN CHOICE, log 12,
15): RS low first, as INIT step 3 leaves it (R83: "one transfer with RS = 0"), then the POKE. `FS` keeps its value, so
after a poke issued alone `FS` differs from the function-set pattern last sent (10_state.md R28 speaks of the block's
own operations, which poke in INIT only; DESIGN CHOICE, log 36). -/
def emitPoke (s : State) (w : BusWidth) (v : Byte) : Host.Outcome State Fault Refusal :=
  onSession s fun r =>
    if r.cfg.busWidth = w then start s (bracketed (setRsSteps r.cfg false ++ pokeSteps r.cfg s.timing v))
    else .refused .notEmitted

/-- SYNC_POKE_8 (R83, 41_init.md R134). -/
def execSyncPoke8 (s : State) : Host.Outcome State Fault Refusal := emitPoke s .eightBit syncPattern

/-- SYNC_POKE_4 (R83, 41_init.md R134). -/
def execSyncPoke4 (s : State) : Host.Outcome State Fault Refusal := emitPoke s .fourBit syncPattern

/-- TO4_POKE (R83, 41_init.md R135). -/
def execTo4Poke (s : State) : Host.Outcome State Fault Refusal := emitPoke s .fourBit to4Pattern

end Sys2Proof.Machine
end

