-- ==== Sys2Proof/Machine/Commands.lean ====
section
/-! DEFINITION. Clear, home, cursor placement and display scroll (42_commands.md R161-R164, R175, R176). -/

namespace Sys2Proof.Machine

/-- CLEAR (R161). -/
def execClear (s : State) : Host.Outcome State Fault Refusal := startPublic s (longBody codeClear)

/-- HOME (R162). -/
def execHome (s : State) : Host.Outcome State Fault Refusal := startPublic s (longBody codeHome)

/-- SETCURSOR (R163, R164). -/
def execSetCursor (row col : Byte) (s : State) : Host.Outcome State Fault Refusal :=
  startPublic s (instructionBody (cursorByte row col))

/-- SCROLL_LEFT (R175). -/
def execScrollLeft (s : State) : Host.Outcome State Fault Refusal := startPublic s (instructionBody byteScrollLeft)

/-- SCROLL_RIGHT (R176). -/
def execScrollRight (s : State) : Host.Outcome State Fault Refusal := startPublic s (instructionBody byteScrollRight)

end Sys2Proof.Machine
end

