-- ==== Sys2Proof/Machine/Init.lean ====
section
/-! DEFINITION. INIT: the ten steps of 41_init.md R131-R140 and the construction of a session (R130, R144). -/

namespace Sys2Proof.Machine

/-- Step 1 (R131). -/
def initStep1 : List MicroStep := [.cse]

/-- Step 2 (R132): data directions, then control directions. -/
def initStep2 (c : SessionConfig) : List MicroStep :=
  [.pw c.dataDdr (busMask c) (busMask c), .pw c.ctrlDdr (rsMask c ||| enMask c) (rsMask c ||| enMask c)]

/-- Step 3 (R133): E is not written. -/
def initStep3 (c : SessionConfig) (t : Timing) : List MicroStep :=
  [.pw c.dataPort (busMask c) 0, .pw c.ctrlPort (rsMask c) 0, .dly (.ms t.tPowerOn)]

/-- Step 4 (R134). -/
def initStep4 (c : SessionConfig) (t : Timing) : List MicroStep :=
  pokeSteps c t syncPattern ++ [.dly (.ms t.tInit1)] ++ pokeSteps c t syncPattern ++ [.dly (.us t.tInit2)] ++
  pokeSteps c t syncPattern

/-- Step 5 (R135). -/
def initStep5 (c : SessionConfig) (t : Timing) : List MicroStep :=
  match c.busWidth with
  | .fourBit => pokeSteps c t to4Pattern
  | .eightBit => []

/-- Step 6 (R136). -/
def initStep6 (c : SessionConfig) (t : Timing) : List MicroStep :=
  writeSteps c t (fsv c.busWidth) false ++ [.cw .fs (fsv c.busWidth)]

/-- Step 7 (R137). -/
def initStep7 (c : SessionConfig) (t : Timing) : List MicroStep := writeSteps c t initDC false ++ [.cw .dc initDC]

/-- Step 8 (R138). -/
def initStep8 (c : SessionConfig) (t : Timing) : List MicroStep :=
  writeSteps c t codeClear false ++ [.dly (.ms t.tLong)]

/-- Step 9 (R139). -/
def initStep9 (c : SessionConfig) (t : Timing) : List MicroStep := writeSteps c t initEM false ++ [.cw .em initEM]

/-- Step 10 (R140). -/
def initStep10 : List MicroStep := [.csr]

/-- The whole sequence (R141). -/
def initSteps (c : SessionConfig) (t : Timing) : List MicroStep :=
  initStep1 ++ initStep2 c ++ initStep3 c t ++ initStep4 c t ++ initStep5 c t ++ initStep6 c t ++ initStep7 c t ++
  initStep8 c t ++ initStep9 c t ++ initStep10

/-- A session as INIT constructs it (R130): the parameters, caches without a value (10_state.md R24), a receiver in an
unknown state (R34, log 11). -/
def newSession (c : SessionConfig) (n k : Nat) : SessionRegs where
  cfg := c
  dc := none
  em := none
  fs := none
  rx := Config.rxFree n k

/-- A session appended; its number is the handle INIT returns (R130, log 7). -/
def addSession (s : State) (x : Session) : State :=
  (s.withSessions (s.sessions ++ [x])).withCur s.sessions.length

/-- INIT (R130): the allocation first (R144), then the configuration and timing check (10_state.md R23,
70_reset_and_hazards.md R236), then a valid session and the ten steps. -/
def execInit (cfg : SessionConfig) (allocOk : Bool) (s : State) : Host.Outcome State Fault Refusal :=
  match s.seq with
  | .busy _ => .refused .sequencerBusy
  | .idle =>
    if allocOk = false then .next (addSession s .invalid)
    else if (validConfig cfg && validTiming s.timing) = false then .refused .badConfiguration
    else
      start (addSession s (.valid (newSession cfg s.sessions.length s.trace.length))) (initSteps cfg s.timing)

end Sys2Proof.Machine
end

