-- ==== Sys2Proof/Machine/Internal.lean ====
section
/-! DEFINITION. The internal operations (40_bus_and_pulse.md R100-R107): each puts its micro-steps before what is left
of the operation in progress (log 16). They make no critical section of their own (R110). -/

namespace Sys2Proof.Machine

/-- PULSE (R100). -/
def execPulse (s : State) : Host.Outcome State Fault Refusal := startInternal s pulseSteps

/-- SET_RS (R102). -/
def execSetRs (rs : Bool) (s : State) : Host.Outcome State Fault Refusal := startInternal s fun c _ => setRsSteps c rs

/-- A WRITE variant on a session of its width; the other width never takes it (R105). -/
def startVariant (s : State) (w : BusWidth) (body : SessionConfig → Timing → List MicroStep) :
    Host.Outcome State Fault Refusal :=
  match s.live with
  | none => startInternal s body
  | some r => if r.cfg.busWidth = w then startInternal s body else .refused .wrongWidth

/-- WRITE8 (R103). -/
def execWrite8 (b : Byte) (rs : Bool) (s : State) : Host.Outcome State Fault Refusal :=
  startVariant s .eightBit fun c t => write8Steps c t b rs

/-- WRITE4 (R104). -/
def execWrite4 (b : Byte) (rs : Bool) (s : State) : Host.Outcome State Fault Refusal :=
  startVariant s .fourBit fun c t => write4Steps c t b rs

/-- WRITE (R105). -/
def execWrite (b : Byte) (rs : Bool) (s : State) : Host.Outcome State Fault Refusal :=
  startInternal s fun c t => writeSteps c t b rs

/-- POKE (R107). -/
def execPoke (v : Byte) (s : State) : Host.Outcome State Fault Refusal :=
  startInternal s fun c t => pokeSteps c t v

end Sys2Proof.Machine
end

