-- ==== Sys2Proof/Machine/Text.lean ====
section
/-! DEFINITION. Text output (42_commands.md R177-R180). -/

namespace Sys2Proof.Machine

/-- PRINT_CHAR (R177): any byte, 0x00 among them. -/
def execPrintChar (c : Byte) (s : State) : Host.Outcome State Fault Refusal :=
  startPublic s fun cfg t => writeSteps cfg t c true

/-- PRINT_STR (R178): one data write for each byte before the first terminator; a sequence without one is refused
(30_encoding.md R89). -/
def execPrintStr (str : List Byte) (s : State) : Host.Outcome State Fault Refusal :=
  if str.contains terminator then startPublic s fun cfg t => textSteps cfg t (stringText str)
  else .refused .unterminatedString

/-- PRINT_INT (R179): PRINT_STR of the formatter's output. -/
def execPrintInt (v : Token) (s : State) : Host.Outcome State Fault Refusal :=
  startPublic s fun cfg t => textSteps cfg t (stringText (intText cfg v))

/-- PRINT_DEC (R180): PRINT_STR of the formatter's output. -/
def execPrintDec (v : Token) (s : State) : Host.Outcome State Fault Refusal :=
  startPublic s fun cfg t => textSteps cfg t (stringText (decText cfg v))

end Sys2Proof.Machine
end

