-- ==== Sys2Proof/Machine/Toggles.lean ====
section
/-! DEFINITION. The display-control and entry-mode toggles (42_commands.md R165-R174), each a TOGGLE (R181). -/

namespace Sys2Proof.Machine

/-- DISPLAY_ON (R165). -/
def execDisplayOn (s : State) : Host.Outcome State Fault Refusal := startToggle s .dc flagD true

/-- DISPLAY_OFF (R166). -/
def execDisplayOff (s : State) : Host.Outcome State Fault Refusal := startToggle s .dc flagD false

/-- CURSOR_ON (R167). -/
def execCursorOn (s : State) : Host.Outcome State Fault Refusal := startToggle s .dc flagC true

/-- CURSOR_OFF (R168). -/
def execCursorOff (s : State) : Host.Outcome State Fault Refusal := startToggle s .dc flagC false

/-- BLINK_ON (R169). -/
def execBlinkOn (s : State) : Host.Outcome State Fault Refusal := startToggle s .dc flagB true

/-- BLINK_OFF (R170). -/
def execBlinkOff (s : State) : Host.Outcome State Fault Refusal := startToggle s .dc flagB false

/-- LTR (R171): left-to-right sets I/D. -/
def execLtr (s : State) : Host.Outcome State Fault Refusal := startToggle s .em flagID true

/-- RTL (R172): right-to-left clears I/D. -/
def execRtl (s : State) : Host.Outcome State Fault Refusal := startToggle s .em flagID false

/-- AUTOSCROLL_ON (R173). -/
def execAutoscrollOn (s : State) : Host.Outcome State Fault Refusal := startToggle s .em flagS true

/-- AUTOSCROLL_OFF (R174). -/
def execAutoscrollOff (s : State) : Host.Outcome State Fault Refusal := startToggle s .em flagS false

end Sys2Proof.Machine
end

