-- ==== Sys2Proof/Machine/Dispatch.lean ====
section
/-! DEFINITION. The dispatch: one arm for each constructor of Instr, in the order of spec/opcode_table.json. -/

namespace Sys2Proof.Machine

def exec (i : Instr) (s : State) : Host.Outcome State Fault Refusal :=
  match i with
  | .clearWord => Sys2Proof.Machine.execClearWord s
  | .returnHome x => Sys2Proof.Machine.execReturnHome x s
  | .entryModeSet id sh => Sys2Proof.Machine.execEntryModeSet id sh s
  | .displayControl d c b => Sys2Proof.Machine.execDisplayControl d c b s
  | .cursorDisplayShift sc rl x => Sys2Proof.Machine.execCursorDisplayShift sc rl x s
  | .functionSet dl n f x => Sys2Proof.Machine.execFunctionSet dl n f x s
  | .setCgramAddress a => Sys2Proof.Machine.execSetCgramAddress a s
  | .setDdramAddress a => Sys2Proof.Machine.execSetDdramAddress a s
  | .dataWrite d => Sys2Proof.Machine.execDataWrite d s
  | .notEmittedZero => Sys2Proof.Machine.execNotEmittedZero s
  | .syncPoke8 => Sys2Proof.Machine.execSyncPoke8 s
  | .syncPoke4 => Sys2Proof.Machine.execSyncPoke4 s
  | .to4Poke => Sys2Proof.Machine.execTo4Poke s
  | .init cfg allocOk => Sys2Proof.Machine.execInit cfg allocOk s
  | .clear => Sys2Proof.Machine.execClear s
  | .home => Sys2Proof.Machine.execHome s
  | .setCursor row col => Sys2Proof.Machine.execSetCursor row col s
  | .displayOn => Sys2Proof.Machine.execDisplayOn s
  | .displayOff => Sys2Proof.Machine.execDisplayOff s
  | .cursorOn => Sys2Proof.Machine.execCursorOn s
  | .cursorOff => Sys2Proof.Machine.execCursorOff s
  | .blinkOn => Sys2Proof.Machine.execBlinkOn s
  | .blinkOff => Sys2Proof.Machine.execBlinkOff s
  | .ltr => Sys2Proof.Machine.execLtr s
  | .rtl => Sys2Proof.Machine.execRtl s
  | .autoscrollOn => Sys2Proof.Machine.execAutoscrollOn s
  | .autoscrollOff => Sys2Proof.Machine.execAutoscrollOff s
  | .scrollLeft => Sys2Proof.Machine.execScrollLeft s
  | .scrollRight => Sys2Proof.Machine.execScrollRight s
  | .printChar c => Sys2Proof.Machine.execPrintChar c s
  | .printStr str => Sys2Proof.Machine.execPrintStr str s
  | .printInt v => Sys2Proof.Machine.execPrintInt v s
  | .printDec v => Sys2Proof.Machine.execPrintDec v s
  | .pulse => Sys2Proof.Machine.execPulse s
  | .setRs rs => Sys2Proof.Machine.execSetRs rs s
  | .write8 b rs => Sys2Proof.Machine.execWrite8 b rs s
  | .write4 b rs => Sys2Proof.Machine.execWrite4 b rs s
  | .write b rs => Sys2Proof.Machine.execWrite b rs s
  | .poke v => Sys2Proof.Machine.execPoke v s

end Sys2Proof.Machine
end

