-- ==== Sys2Proof/Machine/Step.lean ====
section
/-! DEFINITION. One step of the machine (10_state.md R30, R31): a busy sequencer performs its head micro-step; an idle
one takes the next host event, if there is one. -/

namespace Sys2Proof.Machine

/-- One step. Idle with nothing to do, the block holds its state (60_exceptions.md R216). A line's faults as text are
reported before the missing session (DESIGN CHOICE, log 37). -/
def step (s : State) : Host.Outcome State Fault Refusal :=
  match s.seq with
  | .busy ms => sequencerStep ms s
  | .idle =>
    match s.input with
    | [] => .next s
    | .foreign h m v :: rest => foreignWrite h m v (s.withInput rest)
    | .issue n f :: rest =>
      match decode f with
      | .bad r => .refused (.rejected r f)
      | .ok i => reportLine f (exec i ((s.withInput rest).withCur n))

/-- The state with the wire word `w` (numbered as spec/opcode_table.json numbers it) next to be fetched (log 26). -/
def State.withFetchWord (s : State) (nbits w : Nat) : State := placeWord s nbits w

end Sys2Proof.Machine
end

