-- ==== Sys2Proof/Safety.lean ====
section
/-! DEFINITION. The terms claims use: the machine's invariant, the premises of an operation, what a completed operation
leaves unchanged, the transfers the spec lists for a word and for INIT, and the receiver front end of 41_init.md
R146. -/

namespace Sys2Proof.Machine

/-! ### The invariant -/

/-- The host registers are in canonical form. -/
def PortsCanonical (s : State) : Prop := Memory.wf s.ports

/-- The fixed bits of a cache register's value (10_state.md R25-R27). -/
def CacheShape (c : SessionConfig) (reg : CacheReg) (v : Byte) : Prop :=
  match reg with
  | .dc => v &&& 0xF8 = 0x08
  | .em => v &&& 0xFC = 0x04
  | .fs => v = fsv c.busWidth

/-- Every valid session has a valid configuration and cache values of their fixed shape (10_state.md R23, R25-R27). -/
def SessionsOk (s : State) : Prop :=
  ∀ r, Session.valid r ∈ s.sessions →
    validConfig r.cfg = true ∧ ∀ reg v, cacheOf r reg = some v → CacheShape r.cfg reg v

/-- With a valid session, the timing parameters are at least their minima (70_reset_and_hazards.md R236). -/
def TimingOk (s : State) : Prop := (∃ r, Session.valid r ∈ s.sessions) → validTiming s.timing = true

/-- A micro-step writes only bits its session owns, or a cache value of its fixed shape (10_state.md R33). -/
def StepOk (c : SessionConfig) : MicroStep → Prop
  | .pw h m _ => m &&& ~~~ownedMask c h = 0
  | .cw reg v => CacheShape c reg v
  | .dly _ => True
  | .cse => True
  | .csr => True

/-- A list without critical-section micro-steps. -/
def Plain (ms : List MicroStep) : Prop := MicroStep.cse ∉ ms ∧ MicroStep.csr ∉ ms

/-- What is left of an operation is one critical section: all of it, or the inside of one already entered
(20_memory.md R61). -/
def Bracketed (ie : Bool) (ms : List MicroStep) : Prop :=
  (∃ mid, Plain mid ∧ ms = bracketed mid) ∨ (∃ mid, Plain mid ∧ ms = mid ++ [.csr] ∧ ie = false)

/-- A busy sequencer has a valid session, masks interrupts and stays within the owned bits. -/
def SeqOk (s : State) : Prop :=
  match s.seq with
  | .idle => True
  | .busy ms => ∃ r, s.live = some r ∧ (∀ m ∈ ms, StepOk r.cfg m) ∧ Bracketed s.ie ms

/-- Every cache register of a valid session holds a value, or the operation in progress is the INIT about to write it
(10_state.md R24). -/
def CachesLoaded (s : State) : Prop :=
  ∀ k r reg, s.sessions[k]? = some (.valid r) →
    cacheOf r reg ≠ none ∨ (k = s.cur ∧ ∃ v, MicroStep.cw reg v ∈ s.seq.steps)

/-- The machine's invariant. -/
def Inv (s : State) : Prop :=
  PortsCanonical s ∧ SessionsOk s ∧ TimingOk s ∧ SeqOk s ∧ CachesLoaded s

/-! ### Premises and frames of operations -/

/-- The sequencer is idle and the current session is valid, with these registers. -/
def Ready (s : State) (r : SessionRegs) : Prop := s.seq = .idle ∧ s.live = some r

/-- The session's E line. -/
def enableLine (s : State) (c : SessionConfig) : Bool := (s.port c.ctrlPort).getLsbD c.enBit.toNat

/-- The session's RS line. -/
def rsLine (s : State) (c : SessionConfig) : Bool := (s.port c.ctrlPort).getLsbD c.rsBit.toNat

/-- A session without its receiver's state, which is no state of the block (10_state.md R34). -/
def Session.block : Session → Session
  | .invalid => .invalid
  | .valid r => .valid { r with rx := default }

/-- A session owns no bit that the configuration `c` owns too. -/
def OwnsApart (c : SessionConfig) (x : Option Session) : Prop :=
  ∀ r, x = some (.valid r) → ∀ h, ownedMask c h &&& ownedMask r.cfg h = 0

/-- What another session's operation leaves of the session `x`: all of its registers, and its receiver's state as well
when the two own no bit in common (60_exceptions.md R214, log 23). -/
def OtherKept (c : SessionConfig) (x y : Option Session) : Prop :=
  y.map Session.block = x.map Session.block ∧ (OwnsApart c x → y = x)

/-- Nothing but the ports, the trace, the transfers and the receiver's state differs: what a transfer leaves
unchanged (40_bus_and_pulse.md R109, R33). -/
def TransferFrame (s u : State) (r : SessionRegs) : Prop :=
  (∀ h, h ≠ r.cfg.dataPort → h ≠ r.cfg.ctrlPort → u.port h = s.port h) ∧
  (∀ h, u.port h &&& ~~~ownedMask r.cfg h = s.port h &&& ~~~ownedMask r.cfg h) ∧
  u.ie = s.ie ∧ u.tok = s.tok ∧ u.seq = s.seq ∧ u.cur = s.cur ∧ u.timing = s.timing ∧ u.input = s.input ∧
  (∀ k, k ≠ s.cur → OtherKept r.cfg s.sessions[k]? u.sessions[k]?) ∧
  (∃ rx, u.live = some { r with rx := rx }) ∧
  ∃ es, u.trace = s.trace ++ es

/-- What a returned public operation of the session `r` leaves, when the caches are to hold `dc`, `em`, `fs`: every
register but the two ports is unchanged, of those only owned bits change, `IE` is restored, `TOK` holds it, the other
sessions' registers, the configuration, the timing, the handle and the pending input are unchanged. -/
def ReturnFrame (s u : State) (r : SessionRegs) (dc em fs : Option Byte) : Prop :=
  (∀ h, h ≠ r.cfg.dataPort → h ≠ r.cfg.ctrlPort → u.port h = s.port h) ∧
  (∀ h, u.port h &&& ~~~ownedMask r.cfg h = s.port h &&& ~~~ownedMask r.cfg h) ∧
  u.ie = s.ie ∧ u.tok = s.ie ∧ u.seq = .idle ∧ u.cur = s.cur ∧ u.timing = s.timing ∧ u.input = s.input ∧
  (∀ k, k ≠ s.cur → OtherKept r.cfg s.sessions[k]? u.sessions[k]?) ∧
  (∃ rx, u.live = some { r with dc := dc, em := em, fs := fs, rx := rx }) ∧
  ∃ es, u.trace = s.trace ++ es

/-! ### Transfers as the spec lists them -/

/-- The transfers of a bus word `{rs, b}`: one byte, or the high and then the low nibble (30_encoding.md R71, R72). -/
def wordTransfers (n : Nat) (w : BusWidth) (rs : Bool) (b : Byte) : List Transfer :=
  match w with
  | .eightBit => [⟨n, rs, .byte b⟩]
  | .fourBit => [⟨n, rs, .nibble (b.extractLsb' 4 4)⟩, ⟨n, rs, .nibble (b.extractLsb' 0 4)⟩]

/-- The transfers of a text: one data write for each byte (42_commands.md R178). -/
def textTransfers (n : Nat) (w : BusWidth) (bs : List Byte) : List Transfer :=
  bs.flatMap fun b => wordTransfers n w true b

/-- The transfer of a raw poke of `v` with RS at `rs` (40_bus_and_pulse.md R107). -/
def pokeTransfer (n : Nat) (w : BusWidth) (rs : Bool) (v : Byte) : Transfer :=
  match w with
  | .eightBit => ⟨n, rs, .byte v⟩
  | .fourBit => ⟨n, rs, .nibble (v.extractLsb' 4 4)⟩

/-- The latched transfers of a valid INIT (41_init.md R145). -/
def initTransfers (n : Nat) : BusWidth → List Transfer
  | .eightBit =>
    [⟨n, false, .byte 0x30⟩, ⟨n, false, .byte 0x30⟩, ⟨n, false, .byte 0x30⟩, ⟨n, false, .byte 0x38⟩,
     ⟨n, false, .byte 0x0C⟩, ⟨n, false, .byte 0x01⟩, ⟨n, false, .byte 0x06⟩]
  | .fourBit =>
    [⟨n, false, .nibble 0x3⟩, ⟨n, false, .nibble 0x3⟩, ⟨n, false, .nibble 0x3⟩, ⟨n, false, .nibble 0x2⟩,
     ⟨n, false, .nibble 0x2⟩, ⟨n, false, .nibble 0x8⟩, ⟨n, false, .nibble 0x0⟩, ⟨n, false, .nibble 0xC⟩,
     ⟨n, false, .nibble 0x0⟩, ⟨n, false, .nibble 0x1⟩, ⟨n, false, .nibble 0x0⟩, ⟨n, false, .nibble 0x6⟩]

/-- The transfers of a run of pulses that E enters at the level `e`: with E high, the first pulse's first port write
is a falling edge as well, of the same lines (40_bus_and_pulse.md R100, 70_reset_and_hazards.md R239). -/
def fromLevel (e : Bool) (ts : List Transfer) : List Transfer := if e then ts.head?.toList ++ ts else ts

/-- How many micro-steps of a list raise the E line: its pulses. -/
def pulseCount (c : SessionConfig) (ms : List MicroStep) : Nat :=
  ms.countP fun m => m == .pw c.ctrlPort (enMask c) (enMask c)

/-- How many port writes a list makes. -/
def portWriteCount (ms : List MicroStep) : Nat :=
  ms.countP fun m => match m with
    | .pw _ _ _ => true
    | .dly _ | .cse | .csr | .cw _ _ => false

/-- A trace event without the value a port write leaves. -/
def Event.shape : Event → Event
  | .pw h _ => .pw h 0
  | .dly t => .dly t
  | .cse => .cse
  | .csr => .csr

/-- The event a micro-step makes (00_scope.md R14), without the value a port write leaves. -/
def MicroStep.shape : MicroStep → Option Event
  | .pw h _ _ => some (.pw h 0)
  | .dly t => some (.dly t)
  | .cse => some .cse
  | .csr => some .csr
  | .cw _ _ => none

/-! ### Operations that complete -/

/-- A public operation of the ready session `r` is accepted with this body, and returns with these transfers latched
(when E was low; else Obligations.EnableHighOnEntryRepeatsTheFirstTransfer says what a WRITE latches), E low after its
last pulse, these cache values, and its frame. -/
def Completes (i : Instr) (s : State) (r : SessionRegs) (body : List MicroStep) (ts : List Transfer)
    (dc em fs : Option Byte) : Prop :=
  exec i s = .next (s.withSeq (.busy (bracketed body))) ∧
  ReturnFrame s (s.withSeq (.busy (bracketed body))).complete r dc em fs ∧
  (validConfig r.cfg = true →
    (enableLine s r.cfg = false → (s.withSeq (.busy (bracketed body))).complete.latched = s.latched ++ ts) ∧
    (ts ≠ [] → enableLine (s.withSeq (.busy (bracketed body))).complete r.cfg = false))

/-- On an invalid session the operation does nothing (60_exceptions.md R202). -/
def NothingWhenInvalid (i : Instr) : Prop :=
  ∀ s, s.seq = .idle → s.sessions[s.cur]? = some .invalid → exec i s = .next s

/-- A public operation that writes no cache register: on every ready session it completes with one WRITE of a byte and
then these further micro-steps (42_commands.md R160), and on an invalid session it does nothing. -/
def SendsOne (i : Instr) (b : Byte) (rs : Bool) (after : Timing → List MicroStep) : Prop :=
  (∀ s r, Ready s r →
    Completes i s r (writeSteps r.cfg s.timing b rs ++ after s.timing) (wordTransfers s.cur r.cfg.busWidth rs b)
      r.dc r.em r.fs) ∧
  NothingWhenInvalid i

/-- A TOGGLE of a display-control flag (42_commands.md R181): it sends the new byte, and only then caches it. -/
def TogglesDC (i : Instr) (flag : Byte) (set : Bool) : Prop :=
  (∀ s r old new, Ready s r → r.dc = some old → new = (if set then old ||| flag else old &&& ~~~flag) →
    Completes i s r (writeSteps r.cfg s.timing new false ++ [.cw .dc new])
      (wordTransfers s.cur r.cfg.busWidth false new) (some new) r.em r.fs) ∧
  NothingWhenInvalid i

/-- A TOGGLE of an entry-mode flag (42_commands.md R181). -/
def TogglesEM (i : Instr) (flag : Byte) (set : Bool) : Prop :=
  (∀ s r old new, Ready s r → r.em = some old → new = (if set then old ||| flag else old &&& ~~~flag) →
    Completes i s r (writeSteps r.cfg s.timing new false ++ [.cw .em new])
      (wordTransfers s.cur r.cfg.busWidth false new) r.dc (some new) r.fs) ∧
  NothingWhenInvalid i

/-- A text operation (42_commands.md R178): one data write for each byte, in one critical section. -/
def SendsText (i : Instr) (text : SessionConfig → List Byte) : Prop :=
  (∀ s r, Ready s r →
    Completes i s r (textSteps r.cfg s.timing (text r.cfg)) (textTransfers s.cur r.cfg.busWidth (text r.cfg))
      r.dc r.em r.fs) ∧
  NothingWhenInvalid i

/-- An internal operation of a valid session: its micro-steps come before what is left of the operation in progress,
and they leave its frame. -/
def RunsInside (i : Instr) (s : State) (r : SessionRegs) (body : List MicroStep) : Prop :=
  exec i s = .next (s.withSeq (.ofSteps (body ++ s.seq.steps))) ∧ TransferFrame s (performAll body s) r

/-! ### The receiver's front end as 41_init.md R146 describes it

General knowledge, no rule of the block depends on it (G5; PRESUMED, log 34): a claim that uses it says so. -/

/-- The interface state of R146: width, nibble phase and, at the low phase, the nibble held. -/
structure FrontEnd where
  width : BusWidth
  phase : NibblePhase
  held : Nibble
  deriving DecidableEq, Repr

/-- A function-set's upper nibble 0x2 or 0x3 selects the width; any other instruction leaves it. -/
def FrontEnd.instruction (f : FrontEnd) (upper : Nibble) : FrontEnd :=
  if upper = 0x3 then { f with width := .eightBit, phase := .high }
  else if upper = 0x2 then { f with width := .fourBit, phase := .high }
  else { f with phase := .high }

/-- The front end takes a transfer whose upper four data lines carry `n`. -/
def FrontEnd.take (f : FrontEnd) (n : Nibble) : FrontEnd :=
  match f.width, f.phase with
  | .eightBit, _ => f.instruction n
  | .fourBit, .high => { f with phase := .low, held := n }
  | .fourBit, .low => f.instruction f.held

/-- The upper four data lines of a transfer. -/
def DataLines.upper : DataLines → Nibble
  | .byte b => b.extractLsb' 4 4
  | .nibble n => n

/-- The front end after a run of transfers. -/
def FrontEnd.takeAll (f : FrontEnd) (ts : List Transfer) : FrontEnd :=
  ts.foldl (fun g t => g.take t.data.upper) f

end Sys2Proof.Machine
end

