-- ==== Sys2Proof/Certificates/Slice0/Obligations.lean ====
section
/-! DEFINITION. The statements for the provers, one definition each. -/

open Sys2Proof Sys2Proof.Machine

/-! ### Encoding -/

/-- Every well-formed host operation and wire word, with every operand, is decoded from its encoding: a wire word by
30_encoding.md R70-R86, a host line by R87 in the model's text form (log 17). -/
def Obligations.DecodeOfEncodeIsTheInstruction : Prop :=
  ∀ i : Instr, WellFormed i = true → i.kind ≠ .internalOp → decode (encode i) = .ok i

/-- What decoding accepts is well-formed and no internal operation (30_encoding.md R89). -/
def Obligations.DecodedInstructionIsWellFormed : Prop :=
  ∀ (f : Fetched) (i : Instr), decode f = .ok i → WellFormed i = true ∧ i.kind ≠ .internalOp

/-- 30_encoding.md R73: with RS = 1 a data write, with RS = 0 the position of the leading 1 of the byte selects. -/
def Obligations.LeadingOneSelectsTheBusWord : Prop :=
  (∀ b : Byte, decodeBusWord true b = .dataWrite b) ∧
  (∀ b : Byte, 0x80 ≤ b.toNat → ∃ a, decodeBusWord false b = .setDdramAddress a) ∧
  (∀ b : Byte, 0x40 ≤ b.toNat → b.toNat < 0x80 → ∃ a, decodeBusWord false b = .setCgramAddress a) ∧
  (∀ b : Byte, 0x20 ≤ b.toNat → b.toNat < 0x40 → ∃ dl n f x, decodeBusWord false b = .functionSet dl n f x) ∧
  (∀ b : Byte, 0x10 ≤ b.toNat → b.toNat < 0x20 → ∃ sc rl x, decodeBusWord false b = .cursorDisplayShift sc rl x) ∧
  (∀ b : Byte, 0x08 ≤ b.toNat → b.toNat < 0x10 → ∃ d c k, decodeBusWord false b = .displayControl d c k) ∧
  (∀ b : Byte, 0x04 ≤ b.toNat → b.toNat < 0x08 → ∃ id sh, decodeBusWord false b = .entryModeSet id sh) ∧
  (∀ b : Byte, 0x02 ≤ b.toNat → b.toNat < 0x04 → ∃ x, decodeBusWord false b = .returnHome x) ∧
  decodeBusWord false 0x01 = .clearWord ∧ decodeBusWord false 0x00 = .notEmittedZero

/-- A few words and lines written out from 30_encoding.md R74-R83, R87 and 95_test_vectors.md decode to the instruction
they stand for. -/
def Obligations.WrittenOutWordsDecode : Prop :=
  decodeTableWord 16 0b000000001 = some .clearWord ∧
  decodeTableWord 16 0b000000101 = some (.entryModeSet false true) ∧
  decodeTableWord 16 0b000001110 = some (.displayControl true true false) ∧
  decodeTableWord 16 0b000011100 = some (.cursorDisplayShift true true 0) ∧
  decodeTableWord 16 0b000101000 = some (.functionSet false true false 0) ∧
  decodeTableWord 16 0b011000101 = some (.setDdramAddress 0x45) ∧
  decodeTableWord 16 0b101000001 = some (.dataWrite 0x41) ∧
  decodeTableWord 8 0b00010 = some .to4Poke ∧
  decode (.line true (chars ['S', 'E', 'T', 'C', 'U', 'R', 'S', 'O', 'R', ' ', '1', ',', ' ', '5'])) =
    .ok (.setCursor 1 5) ∧
  decode (.line true (chars ['P', 'R', 'I', 'N', 'T', '_', 'S', 'T', 'R', ' ', '"', 'A', 'B', '"'])) =
    .ok (.printStr [0x41, 0x42, 0x00])

/-- 30_encoding.md R89: the host may not issue an internal operation, whatever its operands. R89 names PULSE, WRITE and
POKE; that SET_RS, WRITE8 and WRITE4, which have no text form in R87, are refused under the same name is the model's
choice (log 16). -/
def Obligations.HostMayNotIssueInternalOperations : Prop :=
  ∀ i : Instr, i.kind = .internalOp → decode (encode i) = .bad .internalOperation

/-- 30_encoding.md R89: host text with a row or column outside 0..255, a bit index outside 0..7, a width other than FOUR
or EIGHT, or a string with no 0x00 is refused by name (in the model's text form, log 17). That a character outside
0..255 is refused in the same way is the model's reading (log 18), and so is which reason is named when several operands
are at fault (log 37: from left to right). -/
def Obligations.OutOfRangeHostTextIsRefused : Prop :=
  (∀ a n m, 256 ≤ n →
    decode (.line a (lineOf (.setCursor 0 0) [encodeNum n, encodeNum m])) = .bad .byteRange) ∧
  (∀ a (row : Byte) n, 256 ≤ n →
    decode (.line a (lineOf (.setCursor 0 0) [encodeNum row.toNat, encodeNum n])) = .bad .byteRange) ∧
  (∀ a n, 256 ≤ n → decode (.line a (lineOf (.printChar 0) [encodeNum n])) = .bad .byteRange) ∧
  (∀ a s, (0x00 : Byte) ∉ s → decode (.line a (lineOf (.printStr s) [encodeString s])) = .bad .unterminatedString) ∧
  (∀ a (c : SessionConfig) (rs en : Nat) (w : Token), WellFormed (.init c a) = true → tokenOk w = true →
    8 ≤ rs ∨ 8 ≤ en ∨ (w ≠ encodeWidth .fourBit ∧ w ≠ encodeWidth .eightBit) →
    decode (.line a (lineOf (.init c a)
      [encodeNum c.dataPort, encodeNum c.dataDdr, encodeNum c.ctrlPort, encodeNum c.ctrlDdr, encodeNum rs,
       encodeNum en, w, c.fmt.screenSize, c.fmt.rowWidth, c.fmt.numPrecision, c.fmt.numBase])) =
      .bad (if 8 ≤ rs ∨ 8 ≤ en then .bitIndexRange else .unknownWidth))

/-- 30_encoding.md R89: a line with an unknown mnemonic, and one with a wrong operand count, are refused by name (in the
model's text form, log 17). That these reasons are named before any fault of an operand is the model's choice
(log 37). -/
def Obligations.UnknownMnemonicAndWrongCountAreRefused : Prop :=
  (∀ a (name : Token), name ≠ [] → (0x20 : Byte) ∉ name → (∀ i : Instr, nameOf i ≠ name) →
    decode (.line a name) = .bad .unknownMnemonic) ∧
  (∀ a, ∀ i ∈ plainOps, ∀ t, tokenOk t = true →
    decode (.line a (lineOf i [t])) = .bad .operandCount) ∧
  (∀ a (ts : List Token), (∀ t ∈ ts, tokenOk t = true) →
    (ts.length ≠ 2 → decode (.line a (lineOf (.setCursor 0 0) ts)) = .bad .operandCount) ∧
    (ts.length ≠ 1 → decode (.line a (lineOf (.printChar 0) ts)) = .bad .operandCount) ∧
    (ts.length ≠ 1 → decode (.line a (lineOf (.printInt []) ts)) = .bad .operandCount) ∧
    (ts.length ≠ 1 → decode (.line a (lineOf (.printDec []) ts)) = .bad .operandCount) ∧
    (ts.length ≠ 11 → ∀ c, decode (.line a (lineOf (.init c a) ts)) = .bad .operandCount)) ∧
  (∀ a (ss : List (List Byte)), ss.length ≠ 1 →
    decode (.line a (lineOf (.printStr []) (ss.map encodeString))) = .bad .operandCount)

/-! ### Reset and invariants -/

/-- 70_reset_and_hazards.md R231, R233: before any INIT there is no session and the sequencer is idle, and CLEAR and
DISPLAY_ON are refused (OperationNeedsAnIdleBlockAndASession says it of every operation but INIT). That the timing
parameters stand in State at the defaults of 00_scope.md R7 is the model's choice (log 10), and so is that the trace and
the transfers are recorded in State, empty at reset (log 21). (The reset values of IE, TOK and the ports are the model's
choice too, log 2-4, and no part of this.) -/
def Obligations.ResetHasNoSession : Prop :=
  State.reset.sessions = [] ∧ State.reset.seq = .idle ∧ State.reset.trace = [] ∧ State.reset.latched = [] ∧
  State.reset.timing =
    { tPowerOn := 50, tInit1 := 5, tInit2 := 200, tESetup := 1, tEHigh := 1, tExec := 100, tLong := 2 } ∧
  exec .clear State.reset = .refused .unconstructed ∧ exec .displayOn State.reset = .refused .unconstructed

/-- The invariant holds at reset. -/
def Obligations.InvariantHoldsAtReset : Prop := Inv State.reset

/-- Every step keeps the invariant: the ports' canonical form, valid configurations, the caches' fixed bits
(10_state.md R25-R27), valid timing, one critical section around what is left of an operation (20_memory.md R61),
writes to owned bits only (R33), and caches loaded between operations. -/
def Obligations.EveryStepKeepsTheInvariant : Prop :=
  ∀ s t : State, Inv s → step s = .next t → Inv t

/-- 10_state.md R22, R36: no step changes a session's configuration registers, makes an invalid session valid, or takes
a session away. -/
def Obligations.ConfigurationIsWrittenOnce : Prop :=
  ∀ (s t : State) (k : Nat), step s = .next t →
    (∀ r, s.sessions[k]? = some (.valid r) → ∃ r', t.sessions[k]? = some (.valid r') ∧ r'.cfg = r.cfg) ∧
    (s.sessions[k]? = some .invalid → t.sessions[k]? = some .invalid)

/-- 60_exceptions.md R214: a step changes no register of a session but of the current one, and nothing at all of a
session none of whose owned bits it writes. (A write of owned bits of a second session, a broken host duty,
70_reset_and_hazards.md R235, makes that session's receiver state any value, log 23.) -/
def Obligations.OtherSessionsAreUntouched : Prop :=
  ∀ (s t : State) (k : Nat), step s = .next t → k < s.sessions.length → k ≠ t.cur →
    (t.sessions[k]?).map Session.block = (s.sessions[k]?).map Session.block ∧
    ((∀ h m v ms r, s.seq = .busy (.pw h m v :: ms) → s.sessions[k]? = some (.valid r) → m &&& ownedMask r.cfg h = 0) →
      t.sessions[k]? = s.sessions[k]?)

/-- 40_bus_and_pulse.md R109: in a state that meets the invariant, a step of the operation in progress changes no bit of
a host register that its session does not own. -/
def Obligations.OnlyOwnedBitsChange : Prop :=
  ∀ (s t : State) (ms : List MicroStep) (r : SessionRegs), Inv s → s.seq = .busy ms → s.live = some r →
    step s = .next t → ∀ h, t.port h &&& ~~~ownedMask r.cfg h = s.port h &&& ~~~ownedMask r.cfg h

/-! ### Stepping -/

/-- An idle step runs the decoded instruction of the host event in front: it takes the event, selects the session named,
and is exec; an operation before INIT, and an input that decoding refuses, are reported with their line
(30_encoding.md R89: "refuses (by name and line)"); with no event the state is held (60_exceptions.md R216). That the
host's calls stand in a list whose front an idle step takes is the model's choice (log 26), and so is that a call names
its session by number (log 7), that an idle step with nothing to do answers the same state (log 28), and that a fault of
the text is reported before the missing session (log 37). -/
def Obligations.StepRunsTheDecodedInstruction : Prop :=
  (∀ (s : State) (n : Nat) (f : Fetched) (rest : List HostEvent) (i : Instr),
    s.seq = .idle → s.input = .issue n f :: rest → decode f = .ok i →
      (exec i ((s.withInput rest).withCur n) ≠ .refused .unconstructed →
        step s = exec i ((s.withInput rest).withCur n)) ∧
      (exec i ((s.withInput rest).withCur n) = .refused .unconstructed →
        step s = .refused (.rejected .noSession f))) ∧
  (∀ (s : State) (n : Nat) (f : Fetched) (rest : List HostEvent) (x : Reject),
    s.seq = .idle → s.input = .issue n f :: rest → decode f = .bad x → step s = .refused (.rejected x f)) ∧
  (∀ s : State, s.seq = .idle → s.input = [] → step s = .next s)

/-- A wire word placed for fetching is what the very next step runs, for the current session if it is valid. That a wire
word can be placed and run by itself at all is the model's choice (log 26, 12): no rule of the spec says it. -/
def Obligations.PlacedWordRunsNext : Prop :=
  ∀ (s : State) (r : SessionRegs) (nbits w : Nat) (i : Instr),
    s.seq = .idle → s.live = some r → decodeTableWord nbits w = some i →
      step (s.withFetchWord nbits w) = exec i s

/-- 10_state.md R31 (b), (c): a step of a busy sequencer performs the head micro-step and removes it; with none left the
sequencer is idle; and no host event is taken meanwhile (20_memory.md R60). -/
def Obligations.BusyStepPerformsTheHead : Prop :=
  ∀ (s : State) (m : MicroStep) (ms : List MicroStep) (r : SessionRegs),
    s.seq = .busy (m :: ms) → s.live = some r →
      ∃ t, step s = .next t ∧ t = (perform m s).withSeq (if ms = [] then .idle else .busy ms) ∧ t.input = s.input

/-- 10_state.md R31: an operation in progress runs to its return, one step for each micro-step, and nothing else
happens meanwhile: no cancellation and no time-out. -/
def Obligations.OperationRunsToItsReturn : Prop :=
  ∀ (s : State) (ms : List MicroStep) (r : SessionRegs), s.seq = .busy ms → ms ≠ [] → s.live = some r →
    Host.Core.run Sys2Proof.core ms.length s = .next s.complete ∧ s.complete.seq = .idle ∧
      s.complete.input = s.input

/-- 10_state.md R31 (a), R36: a host operation is refused while the sequencer is busy, and, INIT apart, when there is no
session. -/
def Obligations.OperationNeedsAnIdleBlockAndASession : Prop :=
  ∀ (i : Instr) (s : State), i.kind = .hostOp → WellFormed i = true →
    (∀ ms, s.seq = .busy ms → exec i s = .refused .sequencerBusy) ∧
    (s.seq = .idle → s.sessions[s.cur]? = none → (∀ c a, i ≠ .init c a) → exec i s = .refused .unconstructed)

/-- 60_exceptions.md R202: on an invalid session every host operation other than INIT does nothing. -/
def Obligations.InvalidSessionMakesOperationsNoOps : Prop :=
  ∀ (i : Instr) (s : State), i.kind = .hostOp → WellFormed i = true → (∀ c a, i ≠ .init c a) →
    s.seq = .idle → s.sessions[s.cur]? = some .invalid → exec i s = .next s

/-- 20_memory.md R60, 60_exceptions.md R213 H-3: a foreign write happens only while IE = 1 and only to bits that no
valid session owns; it changes those bits of one register and takes its event, nothing else. That a foreign write is one host event, a
masked update of one register, refused by name where the rules give it no move, is the model's choice (log 22). -/
def Obligations.ForeignWriteNeedsEnabledInterrupts : Prop :=
  ∀ (s : State) (h : Handle) (m v : Byte) (rest : List HostEvent),
    s.seq = .idle → s.input = .foreign h m v :: rest →
      (s.ie = false → step s = .refused .foreignMasked) ∧
      (s.ie = true → (∃ r, Session.valid r ∈ s.sessions ∧ m &&& ownedMask r.cfg h ≠ 0) →
        step s = .refused .foreignOwnedBit) ∧
      (s.ie = true → (∀ r, Session.valid r ∈ s.sessions → m &&& ownedMask r.cfg h = 0) →
        ∃ t, step s = .next t ∧ t.port h = (s.port h &&& ~~~m) ||| (v &&& m) ∧
          (∀ a, a ≠ h → t.port a = s.port a) ∧ t = { s with ports := t.ports, input := rest })

/-! ### Micro-steps -/

/-- 20_memory.md R55, 00_scope.md R12, R14: PW replaces the masked bits of one register, leaves every other register,
and is always recorded with the new value; interrupt state, sequencer, configuration and caches are unchanged. -/
def Obligations.PortWriteIsAMaskedUpdate : Prop :=
  ∀ (s : State) (h : Handle) (m v : Byte),
    (perform (.pw h m v) s).port h = (s.port h &&& ~~~m) ||| (v &&& m) ∧
    (∀ a, a ≠ h → (perform (.pw h m v) s).port a = s.port a) ∧
    (perform (.pw h m v) s).trace = s.trace ++ [.pw h ((s.port h &&& ~~~m) ||| (v &&& m))] ∧
    (perform (.pw h m v) s).ie = s.ie ∧ (perform (.pw h m v) s).tok = s.tok ∧
    (perform (.pw h m v) s).seq = s.seq ∧ (perform (.pw h m v) s).input = s.input ∧
    (∀ r, s.live = some r → ∃ rx, (perform (.pw h m v) s).live = some { r with rx := rx })

/-- 10_state.md R33, 20_memory.md R57: a write of an output register changes the level of the driven pins among the
bits it writes, and which pins are driven not at all; a write of its direction register changes which pins are
driven. -/
def Obligations.PinsFollowOutputAndDirection : Prop :=
  ∀ (s : State) (port ddr : Handle) (m v : Byte), port ≠ ddr →
    drivenPins (perform (.pw port m v) s) port ddr =
      ((drivenPins s port ddr).1,
       ((drivenPins s port ddr).2 &&& ~~~m) ||| (v &&& m &&& (drivenPins s port ddr).1)) ∧
    drivenPins (perform (.pw ddr m v) s) port ddr =
      (((drivenPins s port ddr).1 &&& ~~~m) ||| (v &&& m),
       s.port port &&& (((drivenPins s port ddr).1 &&& ~~~m) ||| (v &&& m)))

/-- 20_memory.md R58: a port write latches a transfer exactly when it takes the session's E line from high to low, and
the transfer is RS and the data lines at that edge. R58 marks the falling edge itself as general knowledge, and that
every falling edge latches, not only the one at the end of a pulse, is the model's choice (log 19, PRESUMED). -/
def Obligations.FallingEdgeLatchesTheLines : Prop :=
  ∀ (s : State) (r : SessionRegs) (h : Handle) (m v : Byte), s.live = some r →
    (perform (.pw h m v) s).latched =
      if h = r.cfg.ctrlPort ∧ enableLine s r.cfg = true ∧ enableLine (perform (.pw h m v) s) r.cfg = false
      then s.latched ++ [{
        session := s.cur
        rs := ((perform (.pw h m v) s).port r.cfg.ctrlPort).getLsbD r.cfg.rsBit.toNat
        data := match r.cfg.busWidth with
          | .eightBit => .byte ((perform (.pw h m v) s).port r.cfg.dataPort)
          | .fourBit => .nibble (((perform (.pw h m v) s).port r.cfg.dataPort).extractLsb' 4 4) }]
      else s.latched

/-- 10_state.md R32, 60_exceptions.md R204: CSE saves IE in TOK and clears IE, CSR restores IE from TOK, each is
recorded, and nothing else changes. -/
def Obligations.CriticalSectionSavesAndRestoresIE : Prop :=
  (∀ s : State, perform .cse s = { s with tok := s.ie, ie := false, trace := s.trace ++ [.cse] }) ∧
  (∀ s : State, perform .csr s = { s with ie := s.tok, trace := s.trace ++ [.csr] })

/-- 00_scope.md R14, 10_state.md R24: DLY only makes its event; CW writes one cache register of the current session and
makes no event. -/
def Obligations.WaitAndCacheWriteEffects : Prop :=
  (∀ (s : State) (d : Duration), perform (.dly d) s = { s with trace := s.trace ++ [.dly d] }) ∧
  (∀ (s : State) (r : SessionRegs) (v : Byte), s.live = some r →
    perform (.cw .dc v) s = { s with sessions := s.sessions.set s.cur (.valid { r with dc := some v }) } ∧
    perform (.cw .em v) s = { s with sessions := s.sessions.set s.cur (.valid { r with em := some v }) } ∧
    perform (.cw .fs v) s = { s with sessions := s.sessions.set s.cur (.valid { r with fs := some v }) })

/-- 20_memory.md R59, 00_scope.md R14: the trace of a list of micro-steps is one event for each of them but CW, in list
order, after what was recorded before. -/
def Obligations.TraceFollowsTheMicroSteps : Prop :=
  ∀ (ms : List MicroStep) (s : State),
    ∃ es, (performAll ms s).trace = s.trace ++ es ∧ es.map Event.shape = ms.filterMap MicroStep.shape

/-! ### The internal operations -/

/-- 40_bus_and_pulse.md R100: PULSE is E low, T_E_SETUP, E high, T_E_HIGH, E low, T_EXEC; it changes only the E bit of
CTRLPORT, leaves E low, and latches what RS and the data lines hold (from E high on entry, see
EnableHighOnEntryRepeatsTheFirstTransfer). -/
def Obligations.PulseLatchesTheHeldLines : Prop :=
  ∀ (s : State) (r : SessionRegs) (body : List MicroStep), s.live = some r →
    body = [.pw r.cfg.ctrlPort (enMask r.cfg) 0, .dly (.us s.timing.tESetup),
      .pw r.cfg.ctrlPort (enMask r.cfg) (enMask r.cfg), .dly (.us s.timing.tEHigh),
      .pw r.cfg.ctrlPort (enMask r.cfg) 0, .dly (.us s.timing.tExec)] →
    RunsInside .pulse s r body ∧
    (∀ a, a ≠ r.cfg.ctrlPort → (performAll body s).port a = s.port a) ∧
    (performAll body s).port r.cfg.ctrlPort = s.port r.cfg.ctrlPort &&& ~~~enMask r.cfg ∧
    enableLine (performAll body s) r.cfg = false ∧
    (validConfig r.cfg = true → enableLine s r.cfg = false →
      (performAll body s).latched = s.latched ++ [transferOf s r.cfg])

/-- 40_bus_and_pulse.md R102: SET_RS writes the RS bit of CTRLPORT, and only that bit, even when it already holds the
value; it latches nothing, it is the first micro-step of every WRITE, and PULSE writes only the E bit. -/
def Obligations.SetRsWritesOnlyTheRsBit : Prop :=
  ∀ (s : State) (r : SessionRegs) (rs : Bool) (body : List MicroStep), s.live = some r →
    body = [.pw r.cfg.ctrlPort (rsMask r.cfg) (if rs then rsMask r.cfg else 0)] →
    RunsInside (.setRs rs) s r body ∧ rsLine (performAll body s) r.cfg = rs ∧
    (∀ a, a ≠ r.cfg.ctrlPort → (performAll body s).port a = s.port a) ∧
    (performAll body s).port r.cfg.ctrlPort &&& ~~~rsMask r.cfg = s.port r.cfg.ctrlPort &&& ~~~rsMask r.cfg ∧
    (r.cfg.rsBit ≠ r.cfg.enBit → (performAll body s).latched = s.latched) ∧
    (∀ b, (writeSteps r.cfg s.timing b rs).take 1 = body) ∧
    ∀ h m v, MicroStep.pw h m v ∈ pulseSteps r.cfg s.timing → m = enMask r.cfg

/-- 40_bus_and_pulse.md R103: WRITE8 is SET_RS, all eight data lines, one PULSE; it latches `{rs, b}`. -/
def Obligations.WriteEightBitLatchesTheByte : Prop :=
  ∀ (s : State) (r : SessionRegs) (b : Byte) (rs : Bool) (body : List MicroStep),
    s.live = some r → r.cfg.busWidth = .eightBit →
    body = .pw r.cfg.ctrlPort (rsMask r.cfg) (if rs then rsMask r.cfg else 0) :: .pw r.cfg.dataPort 0xFF b ::
      pulseSteps r.cfg s.timing →
    RunsInside (.write8 b rs) s r body ∧
    (validConfig r.cfg = true →
      (enableLine s r.cfg = false → (performAll body s).latched = s.latched ++ [⟨s.cur, rs, .byte b⟩]) ∧
      enableLine (performAll body s) r.cfg = false ∧ rsLine (performAll body s) r.cfg = rs ∧
      (performAll body s).port r.cfg.dataPort = b)

/-- 40_bus_and_pulse.md R104: WRITE4 is SET_RS once, the high nibble, PULSE, the low nibble, PULSE; it latches
`{rs, b[7:4]}` and then `{rs, b[3:0]}`. -/
def Obligations.WriteFourBitLatchesHighThenLowNibble : Prop :=
  ∀ (s : State) (r : SessionRegs) (b : Byte) (rs : Bool) (body : List MicroStep),
    s.live = some r → r.cfg.busWidth = .fourBit →
    body = (.pw r.cfg.ctrlPort (rsMask r.cfg) (if rs then rsMask r.cfg else 0) ::
      .pw r.cfg.dataPort 0xF0 (b &&& 0xF0) :: pulseSteps r.cfg s.timing) ++
      .pw r.cfg.dataPort 0xF0 ((b <<< 4) &&& 0xF0) :: pulseSteps r.cfg s.timing →
    RunsInside (.write4 b rs) s r body ∧
    (validConfig r.cfg = true →
      (enableLine s r.cfg = false →
        (performAll body s).latched = s.latched ++
          [⟨s.cur, rs, .nibble (b.extractLsb' 4 4)⟩, ⟨s.cur, rs, .nibble (b.extractLsb' 0 4)⟩]) ∧
      enableLine (performAll body s) r.cfg = false ∧ rsLine (performAll body s) r.cfg = rs ∧
      (performAll body s).port r.cfg.dataPort &&& 0xF0 = (b <<< 4) &&& 0xF0)

/-- 40_bus_and_pulse.md R105: WRITE is the variant of the session's bus width. -/
def Obligations.WriteDispatchesOnTheBusWidth : Prop :=
  ∀ (s : State) (r : SessionRegs) (b : Byte) (rs : Bool), s.live = some r →
    exec (.write b rs) s =
      .next (s.withSeq (.ofSteps ((match r.cfg.busWidth with
        | .eightBit => write8Steps r.cfg s.timing b rs
        | .fourBit => write4Steps r.cfg s.timing b rs) ++ s.seq.steps))) ∧
    (r.cfg.busWidth = .eightBit → exec (.write b rs) s = exec (.write8 b rs) s) ∧
    (r.cfg.busWidth = .fourBit → exec (.write b rs) s = exec (.write4 b rs) s)

/-- 40_bus_and_pulse.md R107: POKE puts the bus-owned bits of `v` on the data lines and pulses once, with RS as it
stands and without SET_RS. -/
def Obligations.PokeTransfersWithRsAsItStands : Prop :=
  ∀ (s : State) (r : SessionRegs) (v : Byte) (body : List MicroStep), s.live = some r →
    body = .pw r.cfg.dataPort (busMask r.cfg) v :: pulseSteps r.cfg s.timing →
    RunsInside (.poke v) s r body ∧
    (validConfig r.cfg = true →
      (enableLine s r.cfg = false →
        (performAll body s).latched = s.latched ++ [pokeTransfer s.cur r.cfg.busWidth (rsLine s r.cfg) v]) ∧
      rsLine (performAll body s) r.cfg = rsLine s r.cfg ∧ enableLine (performAll body s) r.cfg = false ∧
      (performAll body s).port r.cfg.dataPort &&& busMask r.cfg = v &&& busMask r.cfg)

/-- 40_bus_and_pulse.md R106 (a), (b): a WRITE makes one pulse for each transfer, and sets RS first and never again. -/
def Obligations.WriteSetsRsFirstAndOnce : Prop :=
  ∀ (c : SessionConfig) (t : Timing) (b : Byte) (rs : Bool), validConfig c = true →
    ∃ rest, writeSteps c t b rs = .pw c.ctrlPort (rsMask c) (if rs then rsMask c else 0) :: rest ∧
      (∀ h m v, MicroStep.pw h m v ∈ rest → h = c.ctrlPort → m &&& rsMask c = 0) ∧
      pulseCount c (writeSteps c t b rs) = match c.busWidth with
        | .eightBit => 1
        | .fourBit => 2

/-- 70_reset_and_hazards.md R239, as the model records falling edges (log 19, PRESUMED): when E is high on entry, a
PULSE, a WRITE and a POKE latch their first transfer twice. -/
def Obligations.EnableHighOnEntryRepeatsTheFirstTransfer : Prop :=
  ∀ (s : State) (r : SessionRegs), s.live = some r → validConfig r.cfg = true → enableLine s r.cfg = true →
    (performAll (pulseSteps r.cfg s.timing) s).latched =
      s.latched ++ [transferOf s r.cfg, transferOf s r.cfg] ∧
    (∀ b rs, (performAll (writeSteps r.cfg s.timing b rs) s).latched =
      s.latched ++ fromLevel true (wordTransfers s.cur r.cfg.busWidth rs b)) ∧
    (∀ v, (performAll (pokeSteps r.cfg s.timing v) s).latched =
      s.latched ++ fromLevel true [pokeTransfer s.cur r.cfg.busWidth (rsLine s r.cfg) v])

/-- A WRITE variant of the other bus width, which 40_bus_and_pulse.md R105 never selects, is refused (the model's choice,
log 16), and an internal operation on an invalid session does nothing, with no session is refused (R202, R36 said of
operations; of the helpers the model's choice, log 16). -/
def Obligations.InternalOperationsNeedTheirSession : Prop :=
  (∀ (s : State) (r : SessionRegs) (b : Byte) (rs : Bool), s.live = some r →
    (r.cfg.busWidth = .fourBit → exec (.write8 b rs) s = .refused .wrongWidth) ∧
    (r.cfg.busWidth = .eightBit → exec (.write4 b rs) s = .refused .wrongWidth)) ∧
  (∀ (i : Instr) (s : State), i.kind = .internalOp →
    (s.sessions[s.cur]? = some .invalid → exec i s = .next s) ∧
    (s.sessions[s.cur]? = none → exec i s = .refused .unconstructed))

/-! ### INIT -/

/-- 41_init.md R130: INIT of a valid configuration on an idle block constructs a valid session with the parameters and no
cache value, hands out its number, and starts the ten steps; nothing else changes. -/
def Obligations.InitConstructsASessionAndStarts : Prop :=
  ∀ (s : State) (c : SessionConfig), s.seq = .idle → validConfig c = true → validTiming s.timing = true →
    ∃ rx, exec (.init c true) s =
      .next { s with
        sessions := s.sessions ++ [.valid { cfg := c, dc := none, em := none, fs := none, rx := rx }]
        cur := s.sessions.length
        seq := .busy (initSteps c s.timing) }

/-- 41_init.md R141: the micro-steps of INIT, and (a clause the rule marks "derived") their 36 or 56 port writes and
7 or 12 pulses. -/
def Obligations.InitMicroStepsAreTheTenSteps : Prop :=
  ∀ (c : SessionConfig) (t : Timing),
    initSteps c t =
      [.cse, .pw c.dataDdr (busMask c) (busMask c), .pw c.ctrlDdr (rsMask c ||| enMask c) (rsMask c ||| enMask c),
       .pw c.dataPort (busMask c) 0, .pw c.ctrlPort (rsMask c) 0, .dly (.ms t.tPowerOn)] ++
      pokeSteps c t 0x30 ++ [.dly (.ms t.tInit1)] ++ pokeSteps c t 0x30 ++ [.dly (.us t.tInit2)] ++
      pokeSteps c t 0x30 ++ (if c.busWidth = .fourBit then pokeSteps c t 0x20 else []) ++
      writeSteps c t (if c.busWidth = .eightBit then 0x38 else 0x28) false ++
      [.cw .fs (if c.busWidth = .eightBit then 0x38 else 0x28)] ++
      writeSteps c t 0x0C false ++ [.cw .dc 0x0C] ++
      writeSteps c t 0x01 false ++ [.dly (.ms t.tLong)] ++
      writeSteps c t 0x06 false ++ [.cw .em 0x06] ++ [.csr] ∧
    portWriteCount (initSteps c t) = (if c.busWidth = .eightBit then 36 else 56) ∧
    (validConfig c = true → pulseCount c (initSteps c t) = if c.busWidth = .eightBit then 7 else 12)

/-- 41_init.md R143 (a rule the spec marks "derived: from rules R130 to R141"): the state in which a valid INIT returns.
(DATADDR is the direction register of DATAPORT, R21, so another register; log 29. That TOK keeps the saved IE after the return is R231 and log 5. Another session's receiver
is any value if the two share owned bits, log 23.) -/
def Obligations.InitReturnsInTheKnownState : Prop :=
  ∀ (s : State) (c : SessionConfig), s.seq = .idle → validConfig c = true → validTiming s.timing = true →
    c.dataDdr ≠ c.dataPort →
    ∃ t u, exec (.init c true) s = .next t ∧ u = t.complete ∧ u.seq = .idle ∧ u.cur = s.sessions.length ∧
      (∃ rx, u.live = some
        { cfg := c, dc := some 0x0C, em := some 0x06,
          fs := some (if c.busWidth = .eightBit then 0x38 else 0x28), rx := rx }) ∧
      u.ie = s.ie ∧ u.tok = s.ie ∧ enableLine u c = false ∧ rsLine u c = false ∧
      u.port c.dataPort &&& busMask c = (if c.busWidth = .eightBit then 0x06 else 0x60) ∧
      u.port c.dataDdr &&& busMask c = busMask c ∧
      u.port c.ctrlDdr &&& (rsMask c ||| enMask c) = rsMask c ||| enMask c ∧
      (∀ h, u.port h &&& ~~~ownedMask c h = s.port h &&& ~~~ownedMask c h) ∧
      (∀ k, k < s.sessions.length → OtherKept c s.sessions[k]? u.sessions[k]?) ∧
      u.timing = s.timing ∧ u.input = s.input

/-- 41_init.md R145 (marked "derived: from rule R141"), 70_reset_and_hazards.md R239: the transfers a valid INIT latches;
that the first SYNC counts twice when E was high before is the model's reading (log 19). -/
def Obligations.InitLatchesTheListedTransfers : Prop :=
  ∀ (s : State) (c : SessionConfig), s.seq = .idle → validConfig c = true → validTiming s.timing = true →
    c.dataDdr ≠ c.dataPort →
    ∃ t, exec (.init c true) s = .next t ∧
      t.complete.latched =
        s.latched ++ fromLevel (enableLine s c) (initTransfers s.sessions.length c.busWidth)

/-- 41_init.md R144: when the allocation fails, INIT adds an invalid session and performs no micro-step, whatever the
configuration, and every later operation on it does nothing. -/
def Obligations.FailedInitReturnsAnInvalidHandle : Prop :=
  ∀ (s : State) (c : SessionConfig), s.seq = .idle →
    ∃ t, exec (.init c false) s = .next t ∧
      t = { s with sessions := s.sessions ++ [.invalid], cur := s.sessions.length } ∧
      ∀ i : Instr, i.kind = .hostOp → WellFormed i = true → (∀ c a, i ≠ .init c a) → exec i t = .next t

/-- 10_state.md R23, 70_reset_and_hazards.md R236: INIT is refused for a configuration with overlapping or repeated
bits or handles, and for a timing parameter below its minimum. -/
def Obligations.InitRefusesABadConfiguration : Prop :=
  ∀ (s : State) (c : SessionConfig), s.seq = .idle →
    ((c.rsBit = c.enBit ∨
     (c.dataPort = c.ctrlPort ∧ (rsMask c ||| enMask c) &&& busMask c ≠ 0) ∨
     ¬(c.dataPort = c.ctrlPort ↔ c.dataDdr = c.ctrlDdr) ∨
     (c.dataPort ≠ c.ctrlPort ∧ ¬[c.dataPort, c.ctrlPort, c.dataDdr, c.ctrlDdr].Nodup) ∨
     s.timing.tPowerOn < 50 ∨ s.timing.tInit1 < 5 ∨ s.timing.tInit2 < 150 ∨ s.timing.tESetup < 1 ∨
     s.timing.tEHigh < 1 ∨ s.timing.tExec < 37 ∨ s.timing.tLong < 2) ↔
      exec (.init c true) s = .refused .badConfiguration)

/-- 41_init.md R146 (general knowledge; log 34): a receiver front end of that description, in whatever interface state
INIT finds it, is in the session's bus width with no nibble pending when INIT returns, also when E was high before. -/
def Obligations.InitSynchronisesTheFrontEnd : Prop :=
  ∀ (s t : State) (c : SessionConfig) (f : FrontEnd), s.seq = .idle → validConfig c = true →
    validTiming s.timing = true → c.dataDdr ≠ c.dataPort → exec (.init c true) s = .next t →
      (f.takeAll (t.complete.latched.drop s.latched.length)).width = c.busWidth ∧
      (f.takeAll (t.complete.latched.drop s.latched.length)).phase = .high

/-! ### The command surface -/

/-- 42_commands.md R161, R162: CLEAR sends 0x01 and HOME 0x02 to the instruction register, and each then waits
T_LONG. -/
def Obligations.ClearAndHomeSendOneByteAndWait : Prop :=
  SendsOne .clear 0x01 false (fun t => [.dly (.ms t.tLong)]) ∧
  SendsOne .home 0x02 false (fun t => [.dly (.ms t.tLong)])

/-- 42_commands.md R163: the row base table. -/
def Obligations.RowBasesAreFixed : Prop :=
  ∀ row : Byte, rowBase row = if row = 1 then 0x40 else if row = 2 then 0x14 else 0x00

/-- 42_commands.md R164: SETCURSOR sends 0x80 OR-ed with (base(row) + col) mod 256, for every row and column. -/
def Obligations.SetCursorSendsTheAddress : Prop :=
  ∀ row col : Byte,
    SendsOne (.setCursor row col) (0x80 ||| BitVec.ofNat 8 (((rowBase row).toNat + col.toNat) % 256)) false
      (fun _ => [])

/-- 42_commands.md R165-R170: the display, cursor and blink toggles are TOGGLEs of DC. -/
def Obligations.DisplayTogglesSendAndCacheDC : Prop :=
  TogglesDC .displayOn 0x04 true ∧ TogglesDC .displayOff 0x04 false ∧ TogglesDC .cursorOn 0x02 true ∧
  TogglesDC .cursorOff 0x02 false ∧ TogglesDC .blinkOn 0x01 true ∧ TogglesDC .blinkOff 0x01 false

/-- 42_commands.md R171-R174: the direction and autoscroll toggles are TOGGLEs of EM. -/
def Obligations.EntryTogglesSendAndCacheEM : Prop :=
  TogglesEM .ltr 0x02 true ∧ TogglesEM .rtl 0x02 false ∧ TogglesEM .autoscrollOn 0x01 true ∧
  TogglesEM .autoscrollOff 0x01 false

/-- 42_commands.md R184 (c): two display toggles of different flags leave the same DC in either order, and change
neither EM nor FS. -/
def Obligations.DisplayTogglesCommute : Prop :=
  ∀ (s : State) (r : SessionRegs) (old f g : Byte) (a b : Bool),
    Ready s r → r.dc = some old → f &&& g = 0 →
    ∃ t₁ t₂ u₁ u₂ dc rx₁ rx₂,
      startToggle s .dc f a = .next t₁ ∧ startToggle t₁.complete .dc g b = .next t₂ ∧
      startToggle s .dc g b = .next u₁ ∧ startToggle u₁.complete .dc f a = .next u₂ ∧
      t₂.complete.live = some { r with dc := some dc, rx := rx₁ } ∧
      u₂.complete.live = some { r with dc := some dc, rx := rx₂ }

/-- 10_state.md R24 (log 27): a toggle that reads a cache register without a value stops with that fault. -/
def Obligations.ToggleOfAnUnsetCacheFaults : Prop :=
  ∀ (s : State) (r : SessionRegs), Ready s r →
    (r.dc = none → ∀ i ∈ [Instr.displayOn, .displayOff, .cursorOn, .cursorOff, .blinkOn, .blinkOff],
      exec i s = .fault .cacheUnset) ∧
    (r.em = none → ∀ i ∈ [Instr.ltr, .rtl, .autoscrollOn, .autoscrollOff], exec i s = .fault .cacheUnset)

/-- 42_commands.md R175, R176: SCROLL_LEFT sends 0x18, SCROLL_RIGHT 0x1C. -/
def Obligations.ScrollsSendTheirShift : Prop :=
  SendsOne .scrollLeft 0x18 false (fun _ => []) ∧ SendsOne .scrollRight 0x1C false (fun _ => [])

/-- 42_commands.md R177: PRINT_CHAR sends its byte to the data register, 0x00 like any other. -/
def Obligations.PrintCharSendsAnyByte : Prop :=
  ∀ c : Byte, SendsOne (.printChar c) c true (fun _ => [])

/-- 42_commands.md R178: PRINT_STR sends one data write for each byte before the first 0x00, and nothing of what follows
it; the empty string makes no transfer. -/
def Obligations.PrintStrSendsUpToTheTerminator : Prop :=
  ∀ text rest : List Byte, (∀ b ∈ text, b ≠ 0x00) →
    SendsText (.printStr (text ++ 0x00 :: rest)) (fun _ => text)

/-- 42_commands.md R179, R180: PRINT_INT and PRINT_DEC send the bytes of the formatter's output, given the four
formatting registers, up to a 0x00 in it; for every formatter (free values, log 9). -/
def Obligations.NumbersPrintTheFormattersText : Prop :=
  ∀ v : Token,
    SendsText (.printInt v) (fun c => (Config.fmtInt c.fmt v).takeWhile (· != 0x00)) ∧
    SendsText (.printDec v) (fun c => (Config.fmtDec c.fmt v).takeWhile (· != 0x00))

/-! ### Wire words -/

/-- The words of 30_encoding.md R74-R79, R81, R82 that the block emits, each as one transaction of the model (log 12):
the WRITE of its byte with don't-care bits 0, the long wait after clear and home, the new byte cached for entry mode,
display control and function set. -/
def Obligations.WireWordsAreEmitted : Prop :=
  SendsOne .clearWord 0x01 false (fun t => [.dly (.ms t.tLong)]) ∧
  (∀ x, SendsOne (.returnHome x) 0x02 false (fun t => [.dly (.ms t.tLong)])) ∧
  (∀ rl x, SendsOne (.cursorDisplayShift true rl x) (if rl then 0x1C else 0x18) false (fun _ => [])) ∧
  (∀ a : BitVec 7, SendsOne (.setDdramAddress a) (0x80 ||| a.setWidth 8) false (fun _ => [])) ∧
  (∀ d, SendsOne (.dataWrite d) d true (fun _ => [])) ∧
  (∀ (id sh : Bool) (b : Byte) (s : State) (r : SessionRegs), Ready s r →
    b = 0x04 ||| (if id then 0x02 else 0x00) ||| (if sh then 0x01 else 0x00) →
    Completes (.entryModeSet id sh) s r (writeSteps r.cfg s.timing b false ++ [.cw .em b])
      (wordTransfers s.cur r.cfg.busWidth false b) r.dc (some b) r.fs) ∧
  (∀ (d c k : Bool) (b : Byte) (s : State) (r : SessionRegs), Ready s r →
    b = 0x08 ||| (if d then 0x04 else 0x00) ||| (if c then 0x02 else 0x00) ||| (if k then 0x01 else 0x00) →
    Completes (.displayControl d c k) s r (writeSteps r.cfg s.timing b false ++ [.cw .dc b])
      (wordTransfers s.cur r.cfg.busWidth false b) (some b) r.em r.fs) ∧
  (∀ (b : Byte) (s : State) (r : SessionRegs), Ready s r →
    b = (if r.cfg.busWidth = .eightBit then 0x38 else 0x28) →
    Completes (.functionSet (r.cfg.busWidth == .eightBit) true false 0) s r
      (writeSteps r.cfg s.timing b false ++ [.cw .fs b]) (wordTransfers s.cur r.cfg.busWidth false b)
      r.dc r.em (some b))

/-- The raw pokes of 30_encoding.md R83 on a session of their bus width: one transfer of 0x30 (nibble 0x3) or of nibble
0x2 with RS = 0. That a poke issued by itself is one transaction, with RS put low first, is the model's choice (log 12,
15), and so is that FS keeps its value (log 36). -/
def Obligations.RawPokesAreEmitted : Prop :=
  ∀ (s : State) (r : SessionRegs), Ready s r →
    (r.cfg.busWidth = .eightBit →
      Completes .syncPoke8 s r (.pw r.cfg.ctrlPort (rsMask r.cfg) 0 :: pokeSteps r.cfg s.timing 0x30)
        [⟨s.cur, false, .byte 0x30⟩] r.dc r.em r.fs) ∧
    (r.cfg.busWidth = .fourBit →
      Completes .syncPoke4 s r (.pw r.cfg.ctrlPort (rsMask r.cfg) 0 :: pokeSteps r.cfg s.timing 0x30)
        [⟨s.cur, false, .nibble 0x3⟩] r.dc r.em r.fs ∧
      Completes .to4Poke s r (.pw r.cfg.ctrlPort (rsMask r.cfg) 0 :: pokeSteps r.cfg s.timing 0x20)
        [⟨s.cur, false, .nibble 0x2⟩] r.dc r.em r.fs)

/-- 30_encoding.md R86: the words the block never emits are refused in every state: SET_CGRAM_ADDRESS, the zero word, a
cursor move, a function set other than 0x28 and 0x38. That on a ready session the function set of the other bus width is
refused too (log 14), and a raw poke of the other width (log 15), is the model's reading of R79, R83 and 41_init.md
R136. -/
def Obligations.NeverEmittedWordsAreRefused : Prop :=
  (∀ s a, exec (.setCgramAddress a) s = .refused .notEmitted) ∧
  (∀ s, exec .notEmittedZero s = .refused .notEmitted) ∧
  (∀ s rl x, exec (.cursorDisplayShift false rl x) s = .refused .notEmitted) ∧
  (∀ s dl n f x, ¬(n = true ∧ f = false ∧ x = 0) → exec (.functionSet dl n f x) s = .refused .notEmitted) ∧
  (∀ s r dl n f x, Ready s r → dl ≠ (r.cfg.busWidth == .eightBit) →
    exec (.functionSet dl n f x) s = .refused .notEmitted) ∧
  (∀ s r, Ready s r → r.cfg.busWidth = .fourBit → exec .syncPoke8 s = .refused .notEmitted) ∧
  (∀ s r, Ready s r → r.cfg.busWidth = .eightBit →
    exec .syncPoke4 s = .refused .notEmitted ∧ exec .to4Poke s = .refused .notEmitted)

/-! ### Timing -/

/-- 70_reset_and_hazards.md R247 (marked "derived: from rule R240 and the micro-step lists"): the minimum durations,
symbolic and at the default timings. -/
def Obligations.MinimumDurations : Prop :=
  (∀ (c : SessionConfig) (t : Timing) (p w : Nat), p = t.tESetup + t.tEHigh + t.tExec →
    w = (if c.busWidth = .eightBit then p else 2 * p) →
    minMicros (pulseSteps c t) = p ∧
    (∀ b rs, minMicros (bracketed (writeSteps c t b rs)) = w) ∧
    (∀ b, minMicros (bracketed (writeSteps c t b false ++ [.dly (.ms t.tLong)])) = w + 1000 * t.tLong) ∧
    (∀ b reg, minMicros (bracketed (writeSteps c t b false ++ [.cw reg b])) = w) ∧
    (∀ bs, minMicros (bracketed (textSteps c t bs)) = bs.length * w) ∧
    minMicros (initSteps c t) = 1000 * t.tPowerOn + 1000 * t.tInit1 + t.tInit2 +
      (if c.busWidth = .eightBit then 7 else 12) * p + 1000 * t.tLong) ∧
  (∀ c : SessionConfig,
    minMicros (pulseSteps c defaultTiming) = 102 ∧
    (∀ b rs, minMicros (writeSteps c defaultTiming b rs) = if c.busWidth = .eightBit then 102 else 204) ∧
    (∀ b, minMicros (bracketed (writeSteps c defaultTiming b false ++ [.dly (.ms defaultTiming.tLong)])) =
      if c.busWidth = .eightBit then 2102 else 2204) ∧
    (∀ bs, minMicros (bracketed (textSteps c defaultTiming bs)) =
      bs.length * if c.busWidth = .eightBit then 102 else 204) ∧
    minMicros (initSteps c defaultTiming) = if c.busWidth = .eightBit then 57914 else 58424)
end

