-- ==== Sys2Proof/Laws/State.lean ====
section
/-! SUPPORT. One lemma for each field and each update of the state. -/

namespace Sys2Proof.Machine

@[simp] theorem State.withPorts_ports (s : State) (x : List Host.Cell) : (s.withPorts x).ports = x := rfl
@[simp] theorem State.withPorts_ie (s : State) (x : List Host.Cell) : (s.withPorts x).ie = s.ie := rfl
@[simp] theorem State.withPorts_tok (s : State) (x : List Host.Cell) : (s.withPorts x).tok = s.tok := rfl
@[simp] theorem State.withPorts_seq (s : State) (x : List Host.Cell) : (s.withPorts x).seq = s.seq := rfl
@[simp] theorem State.withPorts_sessions (s : State) (x : List Host.Cell) : (s.withPorts x).sessions = s.sessions := rfl
@[simp] theorem State.withPorts_cur (s : State) (x : List Host.Cell) : (s.withPorts x).cur = s.cur := rfl
@[simp] theorem State.withPorts_timing (s : State) (x : List Host.Cell) : (s.withPorts x).timing = s.timing := rfl
@[simp] theorem State.withPorts_trace (s : State) (x : List Host.Cell) : (s.withPorts x).trace = s.trace := rfl
@[simp] theorem State.withPorts_latched (s : State) (x : List Host.Cell) : (s.withPorts x).latched = s.latched := rfl
@[simp] theorem State.withPorts_input (s : State) (x : List Host.Cell) : (s.withPorts x).input = s.input := rfl

@[simp] theorem State.withIe_ports (s : State) (x : Bool) : (s.withIe x).ports = s.ports := rfl
@[simp] theorem State.withIe_ie (s : State) (x : Bool) : (s.withIe x).ie = x := rfl
@[simp] theorem State.withIe_tok (s : State) (x : Bool) : (s.withIe x).tok = s.tok := rfl
@[simp] theorem State.withIe_seq (s : State) (x : Bool) : (s.withIe x).seq = s.seq := rfl
@[simp] theorem State.withIe_sessions (s : State) (x : Bool) : (s.withIe x).sessions = s.sessions := rfl
@[simp] theorem State.withIe_cur (s : State) (x : Bool) : (s.withIe x).cur = s.cur := rfl
@[simp] theorem State.withIe_timing (s : State) (x : Bool) : (s.withIe x).timing = s.timing := rfl
@[simp] theorem State.withIe_trace (s : State) (x : Bool) : (s.withIe x).trace = s.trace := rfl
@[simp] theorem State.withIe_latched (s : State) (x : Bool) : (s.withIe x).latched = s.latched := rfl
@[simp] theorem State.withIe_input (s : State) (x : Bool) : (s.withIe x).input = s.input := rfl

@[simp] theorem State.withTok_ports (s : State) (x : Bool) : (s.withTok x).ports = s.ports := rfl
@[simp] theorem State.withTok_ie (s : State) (x : Bool) : (s.withTok x).ie = s.ie := rfl
@[simp] theorem State.withTok_tok (s : State) (x : Bool) : (s.withTok x).tok = x := rfl
@[simp] theorem State.withTok_seq (s : State) (x : Bool) : (s.withTok x).seq = s.seq := rfl
@[simp] theorem State.withTok_sessions (s : State) (x : Bool) : (s.withTok x).sessions = s.sessions := rfl
@[simp] theorem State.withTok_cur (s : State) (x : Bool) : (s.withTok x).cur = s.cur := rfl
@[simp] theorem State.withTok_timing (s : State) (x : Bool) : (s.withTok x).timing = s.timing := rfl
@[simp] theorem State.withTok_trace (s : State) (x : Bool) : (s.withTok x).trace = s.trace := rfl
@[simp] theorem State.withTok_latched (s : State) (x : Bool) : (s.withTok x).latched = s.latched := rfl
@[simp] theorem State.withTok_input (s : State) (x : Bool) : (s.withTok x).input = s.input := rfl

@[simp] theorem State.withSeq_ports (s : State) (x : Seq) : (s.withSeq x).ports = s.ports := rfl
@[simp] theorem State.withSeq_ie (s : State) (x : Seq) : (s.withSeq x).ie = s.ie := rfl
@[simp] theorem State.withSeq_tok (s : State) (x : Seq) : (s.withSeq x).tok = s.tok := rfl
@[simp] theorem State.withSeq_seq (s : State) (x : Seq) : (s.withSeq x).seq = x := rfl
@[simp] theorem State.withSeq_sessions (s : State) (x : Seq) : (s.withSeq x).sessions = s.sessions := rfl
@[simp] theorem State.withSeq_cur (s : State) (x : Seq) : (s.withSeq x).cur = s.cur := rfl
@[simp] theorem State.withSeq_timing (s : State) (x : Seq) : (s.withSeq x).timing = s.timing := rfl
@[simp] theorem State.withSeq_trace (s : State) (x : Seq) : (s.withSeq x).trace = s.trace := rfl
@[simp] theorem State.withSeq_latched (s : State) (x : Seq) : (s.withSeq x).latched = s.latched := rfl
@[simp] theorem State.withSeq_input (s : State) (x : Seq) : (s.withSeq x).input = s.input := rfl

@[simp] theorem State.withSessions_ports (s : State) (x : List Session) : (s.withSessions x).ports = s.ports := rfl
@[simp] theorem State.withSessions_ie (s : State) (x : List Session) : (s.withSessions x).ie = s.ie := rfl
@[simp] theorem State.withSessions_tok (s : State) (x : List Session) : (s.withSessions x).tok = s.tok := rfl
@[simp] theorem State.withSessions_seq (s : State) (x : List Session) : (s.withSessions x).seq = s.seq := rfl
@[simp] theorem State.withSessions_sessions (s : State) (x : List Session) : (s.withSessions x).sessions = x := rfl
@[simp] theorem State.withSessions_cur (s : State) (x : List Session) : (s.withSessions x).cur = s.cur := rfl
@[simp] theorem State.withSessions_timing (s : State) (x : List Session) : (s.withSessions x).timing = s.timing := rfl
@[simp] theorem State.withSessions_trace (s : State) (x : List Session) : (s.withSessions x).trace = s.trace := rfl
@[simp] theorem State.withSessions_latched (s : State) (x : List Session) : (s.withSessions x).latched = s.latched := rfl
@[simp] theorem State.withSessions_input (s : State) (x : List Session) : (s.withSessions x).input = s.input := rfl

@[simp] theorem State.withCur_ports (s : State) (x : Nat) : (s.withCur x).ports = s.ports := rfl
@[simp] theorem State.withCur_ie (s : State) (x : Nat) : (s.withCur x).ie = s.ie := rfl
@[simp] theorem State.withCur_tok (s : State) (x : Nat) : (s.withCur x).tok = s.tok := rfl
@[simp] theorem State.withCur_seq (s : State) (x : Nat) : (s.withCur x).seq = s.seq := rfl
@[simp] theorem State.withCur_sessions (s : State) (x : Nat) : (s.withCur x).sessions = s.sessions := rfl
@[simp] theorem State.withCur_cur (s : State) (x : Nat) : (s.withCur x).cur = x := rfl
@[simp] theorem State.withCur_timing (s : State) (x : Nat) : (s.withCur x).timing = s.timing := rfl
@[simp] theorem State.withCur_trace (s : State) (x : Nat) : (s.withCur x).trace = s.trace := rfl
@[simp] theorem State.withCur_latched (s : State) (x : Nat) : (s.withCur x).latched = s.latched := rfl
@[simp] theorem State.withCur_input (s : State) (x : Nat) : (s.withCur x).input = s.input := rfl

@[simp] theorem State.withInput_ports (s : State) (x : List HostEvent) : (s.withInput x).ports = s.ports := rfl
@[simp] theorem State.withInput_ie (s : State) (x : List HostEvent) : (s.withInput x).ie = s.ie := rfl
@[simp] theorem State.withInput_tok (s : State) (x : List HostEvent) : (s.withInput x).tok = s.tok := rfl
@[simp] theorem State.withInput_seq (s : State) (x : List HostEvent) : (s.withInput x).seq = s.seq := rfl
@[simp] theorem State.withInput_sessions (s : State) (x : List HostEvent) : (s.withInput x).sessions = s.sessions := rfl
@[simp] theorem State.withInput_cur (s : State) (x : List HostEvent) : (s.withInput x).cur = s.cur := rfl
@[simp] theorem State.withInput_timing (s : State) (x : List HostEvent) : (s.withInput x).timing = s.timing := rfl
@[simp] theorem State.withInput_trace (s : State) (x : List HostEvent) : (s.withInput x).trace = s.trace := rfl
@[simp] theorem State.withInput_latched (s : State) (x : List HostEvent) : (s.withInput x).latched = s.latched := rfl
@[simp] theorem State.withInput_input (s : State) (x : List HostEvent) : (s.withInput x).input = x := rfl

@[simp] theorem State.record_ports (s : State) (e : Event) : (s.record e).ports = s.ports := rfl
@[simp] theorem State.record_ie (s : State) (e : Event) : (s.record e).ie = s.ie := rfl
@[simp] theorem State.record_tok (s : State) (e : Event) : (s.record e).tok = s.tok := rfl
@[simp] theorem State.record_seq (s : State) (e : Event) : (s.record e).seq = s.seq := rfl
@[simp] theorem State.record_sessions (s : State) (e : Event) : (s.record e).sessions = s.sessions := rfl
@[simp] theorem State.record_cur (s : State) (e : Event) : (s.record e).cur = s.cur := rfl
@[simp] theorem State.record_timing (s : State) (e : Event) : (s.record e).timing = s.timing := rfl
@[simp] theorem State.record_trace (s : State) (e : Event) : (s.record e).trace = s.trace ++ [e] := rfl
@[simp] theorem State.record_latched (s : State) (e : Event) : (s.record e).latched = s.latched := rfl
@[simp] theorem State.record_input (s : State) (e : Event) : (s.record e).input = s.input := rfl

@[simp] theorem State.latch_ports (s : State) (t : Transfer) : (s.latch t).ports = s.ports := rfl
@[simp] theorem State.latch_ie (s : State) (t : Transfer) : (s.latch t).ie = s.ie := rfl
@[simp] theorem State.latch_tok (s : State) (t : Transfer) : (s.latch t).tok = s.tok := rfl
@[simp] theorem State.latch_seq (s : State) (t : Transfer) : (s.latch t).seq = s.seq := rfl
@[simp] theorem State.latch_sessions (s : State) (t : Transfer) : (s.latch t).sessions = s.sessions := rfl
@[simp] theorem State.latch_cur (s : State) (t : Transfer) : (s.latch t).cur = s.cur := rfl
@[simp] theorem State.latch_timing (s : State) (t : Transfer) : (s.latch t).timing = s.timing := rfl
@[simp] theorem State.latch_trace (s : State) (t : Transfer) : (s.latch t).trace = s.trace := rfl
@[simp] theorem State.latch_latched (s : State) (t : Transfer) : (s.latch t).latched = s.latched ++ [t] := rfl
@[simp] theorem State.latch_input (s : State) (t : Transfer) : (s.latch t).input = s.input := rfl

@[simp] theorem State.withLive_ports (s : State) (r : SessionRegs) : (s.withLive r).ports = s.ports := rfl
@[simp] theorem State.withLive_ie (s : State) (r : SessionRegs) : (s.withLive r).ie = s.ie := rfl
@[simp] theorem State.withLive_tok (s : State) (r : SessionRegs) : (s.withLive r).tok = s.tok := rfl
@[simp] theorem State.withLive_seq (s : State) (r : SessionRegs) : (s.withLive r).seq = s.seq := rfl
@[simp] theorem State.withLive_sessions (s : State) (r : SessionRegs) : (s.withLive r).sessions = s.sessions.set s.cur (.valid r) := rfl
@[simp] theorem State.withLive_cur (s : State) (r : SessionRegs) : (s.withLive r).cur = s.cur := rfl
@[simp] theorem State.withLive_timing (s : State) (r : SessionRegs) : (s.withLive r).timing = s.timing := rfl
@[simp] theorem State.withLive_trace (s : State) (r : SessionRegs) : (s.withLive r).trace = s.trace := rfl
@[simp] theorem State.withLive_latched (s : State) (r : SessionRegs) : (s.withLive r).latched = s.latched := rfl
@[simp] theorem State.withLive_input (s : State) (r : SessionRegs) : (s.withLive r).input = s.input := rfl

/-! ### What the accessors read after an update -/

@[simp] theorem State.withIe_port (s : State) (x : Bool) (h : Handle) : (s.withIe x).port h = s.port h := rfl
@[simp] theorem State.withTok_port (s : State) (x : Bool) (h : Handle) : (s.withTok x).port h = s.port h := rfl
@[simp] theorem State.withSeq_port (s : State) (x : Seq) (h : Handle) : (s.withSeq x).port h = s.port h := rfl
@[simp] theorem State.withSessions_port (s : State) (x : List Session) (h : Handle) : (s.withSessions x).port h = s.port h := rfl
@[simp] theorem State.withCur_port (s : State) (x : Nat) (h : Handle) : (s.withCur x).port h = s.port h := rfl
@[simp] theorem State.withInput_port (s : State) (x : List HostEvent) (h : Handle) : (s.withInput x).port h = s.port h := rfl
@[simp] theorem State.record_port (s : State) (e : Event) (h : Handle) : (s.record e).port h = s.port h := rfl
@[simp] theorem State.latch_port (s : State) (t : Transfer) (h : Handle) : (s.latch t).port h = s.port h := rfl
@[simp] theorem State.withLive_port (s : State) (r : SessionRegs) (h : Handle) : (s.withLive r).port h = s.port h := rfl

@[simp] theorem State.withPorts_live (s : State) (x : List Host.Cell) : (s.withPorts x).live = s.live := rfl
@[simp] theorem State.withIe_live (s : State) (x : Bool) : (s.withIe x).live = s.live := rfl
@[simp] theorem State.withTok_live (s : State) (x : Bool) : (s.withTok x).live = s.live := rfl
@[simp] theorem State.withSeq_live (s : State) (x : Seq) : (s.withSeq x).live = s.live := rfl
@[simp] theorem State.withInput_live (s : State) (x : List HostEvent) : (s.withInput x).live = s.live := rfl
@[simp] theorem State.record_live (s : State) (e : Event) : (s.record e).live = s.live := rfl
@[simp] theorem State.latch_live (s : State) (t : Transfer) : (s.latch t).live = s.live := rfl

/-! ### The current session -/

/-- A live session is the current one of the list. -/
theorem State.live_eq_some {s : State} {r : SessionRegs} :
    s.live = some r ↔ s.sessions[s.cur]? = some (.valid r) := by
  unfold State.live
  split <;> simp_all

/-- The number of a live session is in range. -/
theorem State.live_lt {s : State} {r : SessionRegs} (h : s.live = some r) : s.cur < s.sessions.length :=
  (List.getElem?_eq_some_iff.1 (State.live_eq_some.1 h)).1

/-- The registers just put into a live session are its registers. -/
theorem State.withLive_live {s : State} {r : SessionRegs} (r' : SessionRegs) (h : s.live = some r) :
    (s.withLive r').live = some r' :=
  State.live_eq_some.2 (by simp [State.live_lt h])

/-- Another session is not touched. -/
theorem State.withLive_other {s : State} (r' : SessionRegs) {k : Nat} (h : k ≠ s.cur) :
    (s.withLive r').sessions[k]? = s.sessions[k]? := by
  simp [h.symm]

/-! ### The sequencer's lists -/

@[simp] theorem Seq.steps_idle : Seq.idle.steps = [] := rfl
@[simp] theorem Seq.steps_busy (ms : List MicroStep) : (Seq.busy ms).steps = ms := rfl
@[simp] theorem Seq.ofSteps_nil : Seq.ofSteps [] = .idle := rfl
@[simp] theorem Seq.ofSteps_cons (m : MicroStep) (ms : List MicroStep) : Seq.ofSteps (m :: ms) = .busy (m :: ms) := rfl
@[simp] theorem Seq.steps_ofSteps (ms : List MicroStep) : (Seq.ofSteps ms).steps = ms := by cases ms <;> rfl

end Sys2Proof.Machine
end

