-- ==== Sys2Proof/Laws/Memory.lean ====
section
/-! SUPPORT. Laws of the host registers: reading after a write, and the canonical form. -/

namespace Sys2Proof.Machine

/-- A handle that is in no cell reads as an unlisted register. -/
theorem Memory.read_absent {m : List Host.Cell} {a : Handle} (h : ∀ c ∈ m, c.1 ≠ a) :
    Memory.read m a = Memory.unlisted a := by
  induction m with
  | nil => rfl
  | cons c m ih =>
    have hc : a ≠ c.1 := fun e => h c (by simp) e.symm
    simp only [Memory.read, if_neg hc]
    exact ih fun d hd => h d (by simp [hd])

/-- What is inserted is read. -/
theorem Memory.read_insert_same {m : List Host.Cell} {a : Handle} {v : Byte} (h : ∀ c ∈ m, c.1 ≠ a) :
    Memory.read (Memory.insert m a v) a = v := by
  induction m with
  | nil => simp [Memory.insert, Memory.read]
  | cons c m ih =>
    have hc : a ≠ c.1 := fun e => h c (by simp) e.symm
    by_cases hlt : a < c.1
    · simp [Memory.insert, Memory.read, hlt]
    · simp only [Memory.insert, if_neg hlt, Memory.read, if_neg hc]
      exact ih fun d hd => h d (by simp [hd])

/-- An insertion leaves the other handles alone. -/
theorem Memory.read_insert_other {m : List Host.Cell} {a b : Handle} {v : Byte} (h : b ≠ a) :
    Memory.read (Memory.insert m a v) b = Memory.read m b := by
  induction m with
  | nil => simp [Memory.insert, Memory.read, h]
  | cons c m ih =>
    by_cases hlt : a < c.1
    · simp [Memory.insert, Memory.read, hlt, h]
    · simp [Memory.insert, hlt, Memory.read, ih]

/-- Taking a handle's cells out leaves the other handles alone. -/
theorem Memory.read_filter_other {m : List Host.Cell} {a b : Handle} (h : b ≠ a) :
    Memory.read (m.filter fun c => c.1 != a) b = Memory.read m b := by
  induction m with
  | nil => rfl
  | cons c m ih =>
    by_cases hc : c.1 = a
    · have hb : b ≠ c.1 := fun e => h (e.trans hc)
      simp [List.filter, hc, Memory.read, ih, h]
    · have : (c.1 != a) = true := by simp [hc]
      simp only [List.filter_cons, this, if_true, Memory.read, ih]

/-- A read after a write of the same register gives the value written. -/
@[simp] theorem Memory.read_write_same (m : List Host.Cell) (a : Handle) (v : Byte) :
    Memory.read (Memory.write m a v) a = v := by
  have hm : ∀ c ∈ m.filter (fun c => c.1 != a), c.1 ≠ a := fun c hc => by simpa using (List.mem_filter.1 hc).2
  by_cases hv : v = Memory.unlisted a
  · simp only [Memory.write, if_pos hv]; rw [Memory.read_absent hm, hv]
  · simp only [Memory.write, if_neg hv]; exact Memory.read_insert_same hm

/-- A write leaves every other register alone. -/
theorem Memory.read_write_other {m : List Host.Cell} {a b : Handle} {v : Byte} (h : b ≠ a) :
    Memory.read (Memory.write m a v) b = Memory.read m b := by
  by_cases hv : v = Memory.unlisted a
  · simp only [Memory.write, if_pos hv]; exact Memory.read_filter_other h
  · simp only [Memory.write, if_neg hv]; rw [Memory.read_insert_other h, Memory.read_filter_other h]

/-- The cells of an insertion. -/
theorem Memory.mem_insert {m : List Host.Cell} {a : Handle} {v : Byte} {c : Host.Cell} :
    c ∈ Memory.insert m a v ↔ c = (a, v) ∨ c ∈ m := by
  induction m with
  | nil => simp [Memory.insert]
  | cons d m ih =>
    by_cases hlt : a < d.1
    · simp [Memory.insert, hlt]
    · simp only [Memory.insert, if_neg hlt, List.mem_cons, ih]; tauto

/-- An insertion of a new handle keeps the cells rising. -/
theorem Memory.insert_rising {m : List Host.Cell} {a : Handle} {v : Byte}
    (hm : m.Pairwise fun x y => x.1 < y.1) (ha : ∀ c ∈ m, c.1 ≠ a) :
    (Memory.insert m a v).Pairwise fun x y => x.1 < y.1 := by
  induction m with
  | nil => simp [Memory.insert]
  | cons d m ih =>
    obtain ⟨hd, hr⟩ := List.pairwise_cons.1 hm
    by_cases hlt : a < d.1
    · simp only [Memory.insert, if_pos hlt]
      refine List.pairwise_cons.2 ⟨fun c hc => ?_, hm⟩
      rcases List.mem_cons.1 hc with rfl | hc
      · exact hlt
      · exact lt_trans hlt (hd c hc)
    · simp only [Memory.insert, if_neg hlt]
      refine List.pairwise_cons.2 ⟨fun c hc => ?_, ih hr fun c hc => ha c (by simp [hc])⟩
      rcases Memory.mem_insert.1 hc with rfl | hc
      · exact lt_of_le_of_ne (not_lt.1 hlt) (ha d (by simp))
      · exact hd c hc

/-- A write keeps the canonical form. -/
theorem Memory.write_wf {m : List Host.Cell} (a : Handle) (v : Byte) (hm : Memory.wf m) :
    Memory.wf (Memory.write m a v) := by
  obtain ⟨hp, hu⟩ := hm
  have hf : (m.filter fun c => c.1 != a).Pairwise fun x y => x.1 < y.1 := hp.filter _
  have hn : ∀ c ∈ m.filter (fun c => c.1 != a), c.2 ≠ Memory.unlisted c.1 :=
    fun c hc => hu c (List.mem_filter.1 hc).1
  by_cases hv : v = Memory.unlisted a
  · simp only [Memory.write, if_pos hv]; exact ⟨hf, hn⟩
  · simp only [Memory.write, if_neg hv]
    refine ⟨Memory.insert_rising hf fun c hc => by simpa using (List.mem_filter.1 hc).2, fun c hc => ?_⟩
    rcases Memory.mem_insert.1 hc with rfl | hc
    · exact hv
    · exact hn c hc

/-- The reset registers are in canonical form. -/
theorem Memory.reset_wf : Memory.wf State.reset.ports := by simp [State.reset, Memory.wf]

/-! ### Through the state -/

/-- The register a write names reads as written. -/
@[simp] theorem State.port_write_same (s : State) (h : Handle) (v : Byte) :
    (s.withPorts (Memory.write s.ports h v)).port h = v := Memory.read_write_same _ _ _

/-- The other registers read as before. -/
theorem State.port_write_other {s : State} {h a : Handle} {v : Byte} (ha : a ≠ h) :
    (s.withPorts (Memory.write s.ports h v)).port a = s.port a := Memory.read_write_other ha

end Sys2Proof.Machine
end

