-- ==== Sys2Proof/Laws/Ops.lean ====
section
/-! SUPPORT. One lemma for each shared operation: what it does to each field, and what its answers say. -/

namespace Sys2Proof.Machine

/-! ### Masks -/

/-- A bit of a masked update. -/
theorem masked_bit (old m v : Byte) (i : Nat) :
    (masked old m v).getLsbD i = if m.getLsbD i then v.getLsbD i else old.getLsbD i := by
  by_cases hi : i < 8
  · rw [masked, BitVec.getLsbD_or, BitVec.getLsbD_and, BitVec.getLsbD_and, BitVec.getLsbD_not]
    cases m.getLsbD i <;> simp [hi]
  · have : 8 ≤ i := by omega
    simp [BitVec.getLsbD_of_ge _ _ this]

/-- A masked update leaves the bits outside its mask. -/
theorem masked_outside (old m v : Byte) : masked old m v &&& ~~~m = old &&& ~~~m := by
  apply BitVec.eq_of_getLsbD_eq
  intro i hi
  rw [BitVec.getLsbD_and, BitVec.getLsbD_and, masked_bit]
  cases hm : m.getLsbD i <;> simp [hm]

/-- The bits of the mask of one bit. -/
theorem bitMask_bit (i : BitVec 3) (j : Nat) : (bitMask i).getLsbD j = decide (j = i.toNat) := by
  have hi := i.isLt
  by_cases hj : j < 8
  · have : ∀ i : BitVec 3, ∀ j : Fin 8, (bitMask i).getLsbD j.val = decide (j.val = i.toNat) := by decide
    exact this i ⟨j, hj⟩
  · have h8 : 8 ≤ j := by omega
    rw [BitVec.getLsbD_of_ge _ _ h8]
    have : j ≠ i.toNat := by omega
    simp [this]

/-! ### The falling edge -/

/-- What `latchEdge` does: nothing, or it records one transfer and draws a receiver state. -/
theorem latchEdge_cases (h : Handle) (old new : Byte) (s : State) :
    (latchEdge h old new s = s ∧ ∀ r, s.live = some r → fallingEdge r.cfg h old new = false) ∨
    ∃ r, s.live = some r ∧ fallingEdge r.cfg h old new = true ∧
      latchEdge h old new s =
        (s.latch (transferOf s r.cfg)).withLive { r with rx := Config.rxFree s.cur s.trace.length } := by
  unfold latchEdge
  cases hs : s.live with
  | none => simp
  | some r =>
    cases hf : fallingEdge r.cfg h old new with
    | false => left; exact ⟨by simp [hf], fun r' hr => by cases hr; exact hf⟩
    | true => right; exact ⟨r, rfl, hf, by simp [hf]⟩

@[simp] theorem latchEdge_ports (h : Handle) (old new : Byte) (s : State) :
    (latchEdge h old new s).ports = s.ports := by
  obtain ⟨e, -⟩ | ⟨r, -, -, e⟩ := latchEdge_cases h old new s <;> rw [e]; rfl
@[simp] theorem latchEdge_ie (h : Handle) (old new : Byte) (s : State) : (latchEdge h old new s).ie = s.ie := by
  obtain ⟨e, -⟩ | ⟨r, -, -, e⟩ := latchEdge_cases h old new s <;> rw [e]; rfl
@[simp] theorem latchEdge_tok (h : Handle) (old new : Byte) (s : State) : (latchEdge h old new s).tok = s.tok := by
  obtain ⟨e, -⟩ | ⟨r, -, -, e⟩ := latchEdge_cases h old new s <;> rw [e]; rfl
@[simp] theorem latchEdge_seq (h : Handle) (old new : Byte) (s : State) : (latchEdge h old new s).seq = s.seq := by
  obtain ⟨e, -⟩ | ⟨r, -, -, e⟩ := latchEdge_cases h old new s <;> rw [e]; rfl
@[simp] theorem latchEdge_cur (h : Handle) (old new : Byte) (s : State) : (latchEdge h old new s).cur = s.cur := by
  obtain ⟨e, -⟩ | ⟨r, -, -, e⟩ := latchEdge_cases h old new s <;> rw [e]; rfl
@[simp] theorem latchEdge_timing (h : Handle) (old new : Byte) (s : State) :
    (latchEdge h old new s).timing = s.timing := by
  obtain ⟨e, -⟩ | ⟨r, -, -, e⟩ := latchEdge_cases h old new s <;> rw [e]; rfl
@[simp] theorem latchEdge_trace (h : Handle) (old new : Byte) (s : State) :
    (latchEdge h old new s).trace = s.trace := by
  obtain ⟨e, -⟩ | ⟨r, -, -, e⟩ := latchEdge_cases h old new s <;> rw [e]; rfl
@[simp] theorem latchEdge_input (h : Handle) (old new : Byte) (s : State) :
    (latchEdge h old new s).input = s.input := by
  obtain ⟨e, -⟩ | ⟨r, -, -, e⟩ := latchEdge_cases h old new s <;> rw [e]; rfl

@[simp] theorem latchEdge_port (h : Handle) (old new : Byte) (s : State) (a : Handle) :
    (latchEdge h old new s).port a = s.port a := by simp [State.port]

/-- The current session keeps all but its receiver's state. -/
theorem latchEdge_live {s : State} {r : SessionRegs} (h : Handle) (old new : Byte) (hs : s.live = some r) :
    ∃ rx, (latchEdge h old new s).live = some { r with rx := rx } := by
  obtain ⟨e, -⟩ | ⟨r', hr, -, e⟩ := latchEdge_cases h old new s
  · exact ⟨r.rx, by rw [e, hs]⟩
  · cases hs.symm.trans hr
    exact ⟨_, by rw [e]; exact State.withLive_live (s := s.latch _) _ hs⟩

/-- Another session is not touched. -/
theorem latchEdge_other {s : State} {k : Nat} (h : Handle) (old new : Byte) (hk : k ≠ s.cur) :
    (latchEdge h old new s).sessions[k]? = s.sessions[k]? := by
  obtain ⟨e, -⟩ | ⟨r', -, -, e⟩ := latchEdge_cases h old new s
  · rw [e]
  · rw [e]; exact State.withLive_other (s := s.latch _) _ hk

/-- A latched transfer is recorded exactly at a falling edge. -/
theorem latchEdge_latched {s : State} {r : SessionRegs} (h : Handle) (old new : Byte) (hs : s.live = some r) :
    (latchEdge h old new s).latched =
      if fallingEdge r.cfg h old new then s.latched ++ [transferOf s r.cfg] else s.latched := by
  cases hf : fallingEdge r.cfg h old new <;> simp [latchEdge, hs, hf]

/-! ### Sessions that a write disturbs -/

/-- The sessions after a write: the current one as it is, each other one perhaps with another receiver state. -/
theorem disturbOthers_getElem? (h : Handle) (m : Byte) (cur n k j : Nat) (l : List Session) :
    (disturbOthers h m cur n k l)[j]? =
      l[j]?.map fun x => if k + j = cur then x else disturbed h m (k + j) n x := by
  induction l generalizing k j with
  | nil => simp [disturbOthers]
  | cons x xs ih =>
    cases j with
    | zero => simp [disturbOthers]
    | succ j =>
      have e : k + 1 + j = k + (j + 1) := by omega
      simp only [disturbOthers, List.getElem?_cons_succ, ih, e]

/-- A write of bits that a session does not own leaves it alone. -/
theorem disturbed_apart {h : Handle} {m : Byte} {x : Session} (k n : Nat)
    (hx : ∀ r, x = .valid r → m &&& ownedMask r.cfg h = 0) : disturbed h m k n x = x := by
  cases x with
  | invalid => rfl
  | valid r => simp [disturbed, hx r rfl]

/-- A disturbed session keeps all of its registers. -/
theorem disturbed_cases (h : Handle) (m : Byte) (k n : Nat) (x : Session) :
    disturbed h m k n x = x ∨ ∃ r, x = .valid r ∧ disturbed h m k n x = .valid { r with rx := Config.rxFree k n } := by
  cases x with
  | invalid => exact .inl rfl
  | valid r =>
    by_cases e : m &&& ownedMask r.cfg h = 0
    · exact .inl (if_pos e)
    · exact .inr ⟨r, rfl, if_neg e⟩

@[simp] theorem registerWrite_ie (h : Handle) (m v : Byte) (s : State) : (registerWrite h m v s).ie = s.ie := rfl
@[simp] theorem registerWrite_tok (h : Handle) (m v : Byte) (s : State) : (registerWrite h m v s).tok = s.tok := rfl
@[simp] theorem registerWrite_seq (h : Handle) (m v : Byte) (s : State) : (registerWrite h m v s).seq = s.seq := rfl
@[simp] theorem registerWrite_cur (h : Handle) (m v : Byte) (s : State) : (registerWrite h m v s).cur = s.cur := rfl
@[simp] theorem registerWrite_timing (h : Handle) (m v : Byte) (s : State) :
    (registerWrite h m v s).timing = s.timing := rfl
@[simp] theorem registerWrite_latched (h : Handle) (m v : Byte) (s : State) :
    (registerWrite h m v s).latched = s.latched := rfl
@[simp] theorem registerWrite_input (h : Handle) (m v : Byte) (s : State) :
    (registerWrite h m v s).input = s.input := rfl
@[simp] theorem registerWrite_trace (h : Handle) (m v : Byte) (s : State) :
    (registerWrite h m v s).trace = s.trace ++ [.pw h (masked (s.port h) m v)] := rfl
@[simp] theorem registerWrite_ports (h : Handle) (m v : Byte) (s : State) :
    (registerWrite h m v s).ports = Memory.write s.ports h (masked (s.port h) m v) := rfl

/-- A register write leaves the current session alone. -/
@[simp] theorem registerWrite_live (h : Handle) (m v : Byte) (s : State) : (registerWrite h m v s).live = s.live := by
  have e : (registerWrite h m v s).sessions[s.cur]? = s.sessions[s.cur]? := by
    refine (disturbOthers_getElem? h m s.cur _ 0 s.cur s.sessions).trans ?_
    simp
  simp only [State.live, registerWrite_cur, e]

/-- A register write's effect on another session. -/
theorem registerWrite_other {s : State} {k : Nat} (h : Handle) (m v : Byte) (hk : k ≠ s.cur) :
    (registerWrite h m v s).sessions[k]? = s.sessions[k]?.map (disturbed h m k (s.trace.length + 1)) := by
  refine (disturbOthers_getElem? h m s.cur _ 0 k s.sessions).trans ?_
  simp [hk]

/-! ### Micro-steps -/

/-- A port write: the register named reads as the masked update (00_scope.md R12). -/
@[simp] theorem portWrite_same (h : Handle) (m v : Byte) (s : State) :
    (portWrite h m v s).port h = masked (s.port h) m v := by
  rw [portWrite, latchEdge_port]
  exact State.port_write_same ..

/-- A port write leaves every other register alone. -/
theorem portWrite_other {s : State} {h a : Handle} (m v : Byte) (ha : a ≠ h) :
    (portWrite h m v s).port a = s.port a := by
  rw [portWrite, latchEdge_port]
  exact State.port_write_other ha

/-- No micro-step changes the sequencer, the handle, the timing or the pending input. -/
theorem perform_fixed (m : MicroStep) (s : State) :
    (perform m s).seq = s.seq ∧ (perform m s).cur = s.cur ∧ (perform m s).timing = s.timing ∧
      (perform m s).input = s.input := by
  cases m with
  | pw h m v => simp [perform, portWrite]
  | dly t => simp [perform]
  | cse => simp [perform, csEnter]
  | csr => simp [perform, csRestore]
  | cw reg v =>
    unfold perform cacheWrite
    cases s.live <;> simp

@[simp] theorem perform_seq (m : MicroStep) (s : State) : (perform m s).seq = s.seq := (perform_fixed m s).1
@[simp] theorem perform_cur (m : MicroStep) (s : State) : (perform m s).cur = s.cur := (perform_fixed m s).2.1
@[simp] theorem perform_timing (m : MicroStep) (s : State) : (perform m s).timing = s.timing := (perform_fixed m s).2.2.1
@[simp] theorem perform_input (m : MicroStep) (s : State) : (perform m s).input = s.input := (perform_fixed m s).2.2.2

@[simp] theorem setCache_cfg (r : SessionRegs) (reg : CacheReg) (v : Byte) : (setCache r reg v).cfg = r.cfg := by
  cases reg <;> rfl

@[simp] theorem cacheOf_setCache_same (r : SessionRegs) (reg : CacheReg) (v : Byte) :
    cacheOf (setCache r reg v) reg = some v := by
  cases reg <;> rfl

/-- Writing one cache register leaves the others. -/
theorem cacheOf_setCache_other {r : SessionRegs} {reg reg' : CacheReg} {v : Byte} (h : reg' ≠ reg) :
    cacheOf (setCache r reg v) reg' = cacheOf r reg' := by
  cases reg <;> cases reg' <;> first | rfl | exact absurd rfl h

/-- A live session stays live with its configuration under every micro-step. -/
theorem perform_live {s : State} {r : SessionRegs} (m : MicroStep) (hs : s.live = some r) :
    ∃ r', (perform m s).live = some r' ∧ r'.cfg = r.cfg := by
  cases m with
  | pw h m v =>
    obtain ⟨rx, e⟩ := latchEdge_live h (s.port h) (masked (s.port h) m v)
      (s := registerWrite h m v s) (r := r) ((registerWrite_live h m v s).trans hs)
    exact ⟨_, e, rfl⟩
  | dly t => exact ⟨r, hs, rfl⟩
  | cse => exact ⟨r, hs, rfl⟩
  | csr => exact ⟨r, hs, rfl⟩
  | cw reg v =>
    refine ⟨setCache r reg v, ?_, by simp⟩
    show (cacheWrite reg v s).live = _
    simp only [cacheWrite, hs]
    exact State.withLive_live _ hs

/-- A micro-step leaves another session alone, or is a port write and disturbs it. -/
theorem perform_other {s : State} {k : Nat} (m : MicroStep) (hk : k ≠ s.cur) :
    (perform m s).sessions[k]? = s.sessions[k]? ∨
      ∃ h msk v n, m = .pw h msk v ∧ (perform m s).sessions[k]? = s.sessions[k]?.map (disturbed h msk k n) := by
  cases m with
  | pw h m v =>
    exact .inr ⟨h, m, v, _, rfl,
      (latchEdge_other (s := registerWrite h m v s) h _ _ hk).trans (registerWrite_other h m v hk)⟩
  | dly t => exact .inl rfl
  | cse => exact .inl rfl
  | csr => exact .inl rfl
  | cw reg v =>
    left
    show (cacheWrite reg v s).sessions[k]? = _
    unfold cacheWrite
    cases s.live with
    | none => rfl
    | some r => exact State.withLive_other _ hk

/-- Every micro-step keeps the host registers in canonical form. -/
theorem perform_wf {s : State} (m : MicroStep) (hs : Memory.wf s.ports) : Memory.wf (perform m s).ports := by
  cases m with
  | pw h m v =>
    show Memory.wf (portWrite h m v s).ports
    rw [portWrite, latchEdge_ports]
    exact Memory.write_wf _ _ hs
  | dly t => exact hs
  | cse => exact hs
  | csr => exact hs
  | cw reg v =>
    show Memory.wf (cacheWrite reg v s).ports
    unfold cacheWrite
    cases s.live <;> exact hs

/-- The value a micro-step's write leaves outside its mask. -/
theorem perform_outside (h : Handle) (m v : Byte) (s : State) (a : Handle) :
    (perform (.pw h m v) s).port a &&& ~~~m = s.port a &&& ~~~m := by
  by_cases ha : a = h
  · subst ha; simp only [perform, portWrite_same, masked_outside]
  · simp only [perform, portWrite_other _ _ ha]

/-! ### Lists of micro-steps -/

@[simp] theorem performAll_nil (s : State) : performAll [] s = s := rfl
@[simp] theorem performAll_cons (m : MicroStep) (ms : List MicroStep) (s : State) :
    performAll (m :: ms) s = performAll ms (perform m s) := rfl

/-- A list and then another. -/
theorem performAll_append (ms ns : List MicroStep) (s : State) :
    performAll (ms ++ ns) s = performAll ns (performAll ms s) := by
  induction ms generalizing s with
  | nil => rfl
  | cons m ms ih => exact ih _

/-- No list of micro-steps changes the sequencer, the handle, the timing or the pending input. -/
theorem performAll_fixed (ms : List MicroStep) (s : State) :
    (performAll ms s).seq = s.seq ∧ (performAll ms s).cur = s.cur ∧ (performAll ms s).timing = s.timing ∧
      (performAll ms s).input = s.input := by
  induction ms generalizing s with
  | nil => exact ⟨rfl, rfl, rfl, rfl⟩
  | cons m ms ih =>
    obtain ⟨a, b, c, d⟩ := ih (perform m s)
    obtain ⟨a', b', c', d'⟩ := perform_fixed m s
    exact ⟨a.trans a', b.trans b', c.trans c', d.trans d'⟩

/-- A live session stays live with its configuration under every list of micro-steps. -/
theorem performAll_live {s : State} {r : SessionRegs} (ms : List MicroStep) (hs : s.live = some r) :
    ∃ r', (performAll ms s).live = some r' ∧ r'.cfg = r.cfg := by
  induction ms generalizing s r with
  | nil => exact ⟨r, hs, rfl⟩
  | cons m ms ih =>
    obtain ⟨r₁, h₁, e₁⟩ := perform_live m hs
    obtain ⟨r₂, h₂, e₂⟩ := ih h₁
    exact ⟨r₂, h₂, e₂.trans e₁⟩

/-! ### Starting an operation -/

/-- On an idle sequencer and a valid session, the wrapper is its continuation. -/
theorem onSession_ready {s : State} {r : SessionRegs} (k : SessionRegs → Host.Outcome State Fault Refusal)
    (hi : s.seq = .idle) (hl : s.live = some r) : onSession s k = k r := by
  unfold onSession
  rw [hi, State.live_eq_some.1 hl]

/-- On an invalid session, nothing happens (60_exceptions.md R202). -/
theorem onSession_invalid {s : State} (k : SessionRegs → Host.Outcome State Fault Refusal)
    (hi : s.seq = .idle) (hl : s.sessions[s.cur]? = some .invalid) : onSession s k = .next s := by
  unfold onSession
  rw [hi, hl]

/-- With no session, the operation is refused (10_state.md R36). -/
theorem onSession_unconstructed {s : State} (k : SessionRegs → Host.Outcome State Fault Refusal)
    (hi : s.seq = .idle) (hl : s.sessions[s.cur]? = none) : onSession s k = .refused .unconstructed := by
  unfold onSession
  rw [hi, hl]

/-- While the sequencer is busy, the operation is refused (10_state.md R31). -/
theorem onSession_busy {s : State} {ms : List MicroStep} (k : SessionRegs → Host.Outcome State Fault Refusal)
    (hi : s.seq = .busy ms) : onSession s k = .refused .sequencerBusy := by
  unfold onSession
  rw [hi]

/-- If the wrapper answers a next state, the sequencer was idle, and the session was invalid and nothing happened, or
it was valid and the continuation answered. -/
theorem onSession_next {s t : State} {k : SessionRegs → Host.Outcome State Fault Refusal}
    (h : onSession s k = .next t) :
    s.seq = .idle ∧
      ((s.sessions[s.cur]? = some .invalid ∧ t = s) ∨ ∃ r, s.live = some r ∧ k r = .next t) := by
  unfold onSession at h
  split at h
  · cases h
  · rename_i hs
    refine ⟨hs, ?_⟩
    split at h
    · cases h
    · rename_i hx; cases h; exact .inl ⟨hx, rfl⟩
    · rename_i r hx; exact .inr ⟨r, State.live_eq_some.2 hx, h⟩

/-- If a public operation answers a next state, it changed nothing but `SEQ`. -/
theorem startPublic_next {s t : State} {body : SessionConfig → Timing → List MicroStep}
    (h : startPublic s body = .next t) :
    s.seq = .idle ∧
      ((s.sessions[s.cur]? = some .invalid ∧ t = s) ∨
        ∃ r, s.live = some r ∧ t = s.withSeq (.busy (bracketed (body r.cfg s.timing)))) := by
  obtain ⟨hi, h | ⟨r, hl, h⟩⟩ := onSession_next h
  · exact ⟨hi, .inl h⟩
  · cases h; exact ⟨hi, .inr ⟨r, hl, rfl⟩⟩

/-- If a toggle answers a next state, it changed nothing but `SEQ`. -/
theorem startToggle_next {s t : State} {reg : CacheReg} {flag : Byte} {set : Bool}
    (h : startToggle s reg flag set = .next t) :
    s.seq = .idle ∧
      ((s.sessions[s.cur]? = some .invalid ∧ t = s) ∨
        ∃ r old, s.live = some r ∧ cacheOf r reg = some old ∧
          t = s.withSeq (.busy (bracketed (writeSteps r.cfg s.timing (toggled old flag set) false ++
            [.cw reg (toggled old flag set)])))) := by
  obtain ⟨hi, h | ⟨r, hl, h⟩⟩ := onSession_next h
  · exact ⟨hi, .inl h⟩
  · cases hc : cacheOf r reg with
    | none => rw [hc] at h; cases h
    | some old => rw [hc] at h; cases h; exact ⟨hi, .inr ⟨r, old, hl, hc, rfl⟩⟩

/-- If an internal operation answers a next state, it changed nothing but `SEQ`. -/
theorem startInternal_next {s t : State} {body : SessionConfig → Timing → List MicroStep}
    (h : startInternal s body = .next t) :
    (s.sessions[s.cur]? = some .invalid ∧ t = s) ∨
      ∃ r, s.live = some r ∧ t = s.withSeq (.ofSteps (body r.cfg s.timing ++ s.seq.steps)) := by
  unfold startInternal at h
  split at h
  · cases h
  · rename_i hx; cases h; exact .inl ⟨hx, rfl⟩
  · rename_i r hx; cases h; exact .inr ⟨r, State.live_eq_some.2 hx, rfl⟩

/-- A reported line answers a next state exactly when the operation does. -/
theorem reportLine_next {f : Fetched} {o : Host.Outcome State Fault Refusal} {t : State} :
    reportLine f o = .next t ↔ o = .next t := by
  rcases o with s | x | x
  · exact Iff.rfl
  · exact Iff.rfl
  · constructor <;> intro h <;> cases x <;> cases h

/-- Only the refusal of an operation without a session is reported otherwise. -/
theorem reportLine_eq {f : Fetched} {o : Host.Outcome State Fault Refusal} (h : o ≠ .refused .unconstructed) :
    reportLine f o = o := by
  rcases o with s | x | x
  · rfl
  · rfl
  · cases x <;> first | rfl | exact absurd rfl h

/-- If a foreign write answers a next state, interrupts were enabled, no owned bit was named, and one register took a
masked update. -/
theorem foreignWrite_next {s t : State} {h : Handle} {m v : Byte} (e : foreignWrite h m v s = .next t) :
    s.ie = true ∧ m &&& sessionsOwn h s.sessions = 0 ∧
      t = s.withPorts (Memory.write s.ports h (masked (s.port h) m v)) := by
  unfold foreignWrite at e
  split at e
  · cases e
  · rename_i hie
    split at e
    · cases e
    · rename_i hm
      cases e
      exact ⟨by simpa using hie, by simpa using hm, rfl⟩

/-- If a busy sequencer answers a next state, it became idle with nothing left, or performed its head micro-step. -/
theorem sequencerStep_next {s t : State} {ms : List MicroStep} (h : sequencerStep ms s = .next t) :
    (ms = [] ∧ t = s.withSeq .idle) ∨
      ∃ m rest r, ms = m :: rest ∧ s.live = some r ∧ t = (perform m s).withSeq (Seq.ofSteps rest) := by
  unfold sequencerStep at h
  split at h
  · cases h; exact .inl ⟨rfl, rfl⟩
  · rename_i m rest
    split at h
    · cases h
    · rename_i r hr; cases h; exact .inr ⟨m, rest, r, rfl, hr, rfl⟩

/-! ### Wrong configurations -/

/-- On a shared port the control bits lie outside the bus (10_state.md R23, 40_bus_and_pulse.md R108). -/
theorem validConfig_shared {c : SessionConfig} (h : validConfig c = true) (hs : c.dataPort = c.ctrlPort) :
    (rsMask c ||| enMask c) &&& busMask c = 0 := by
  simp only [validConfig, shared, hs, Bool.and_eq_true] at h
  simpa using h.1.1.2

/-- RS and E are different bits (10_state.md R23). -/
theorem validConfig_bits {c : SessionConfig} (h : validConfig c = true) : c.rsBit ≠ c.enBit := by
  simp only [validConfig, Bool.and_eq_true] at h
  simpa using h.1.1.1

end Sys2Proof.Machine
end

