-- ==== Sys2Proof/Laws/PerInstr.lean ====
section
/-! SUPPORT. Statements made per instruction: the round trip of the wire words. -/

namespace Sys2Proof.Laws.WordRoundTrip

open Sys2Proof

/-- A well-formed wire word decodes from its encoding to itself. -/
def Statement (i : Instr) : Prop :=
  (i.kind = .busWord ∨ i.kind = .rawTransfer) → WellFormed i = true → decode (encode i) = .ok i

theorem clearWord : Statement .clearWord := fun _ _ => by decide
theorem returnHome (x : Bool) : Statement (.returnHome x) := fun _ _ => by revert x; decide
theorem entryModeSet (id s : Bool) : Statement (.entryModeSet id s) := fun _ _ => by revert id s; decide
theorem displayControl (d c b : Bool) : Statement (.displayControl d c b) := fun _ _ => by revert d c b; decide
theorem cursorDisplayShift (sc rl : Bool) (x : BitVec 2) : Statement (.cursorDisplayShift sc rl x) :=
  fun _ _ => by revert sc rl x; decide
theorem functionSet (dl n f : Bool) (x : BitVec 2) : Statement (.functionSet dl n f x) :=
  fun _ => by revert dl n f x; decide
theorem setCgramAddress (a : BitVec 6) : Statement (.setCgramAddress a) := fun _ _ => by revert a; decide
theorem setDdramAddress (a : BitVec 7) : Statement (.setDdramAddress a) := fun _ _ => by revert a; decide
theorem dataWrite (d : Byte) : Statement (.dataWrite d) := fun _ _ => rfl
theorem notEmittedZero : Statement .notEmittedZero := fun _ _ => by decide
theorem syncPoke8 : Statement .syncPoke8 := fun _ _ => by decide
theorem syncPoke4 : Statement .syncPoke4 := fun _ _ => by decide
theorem to4Poke : Statement .to4Poke := fun _ _ => by decide

/-- A host or internal operation is no wire word. -/
theorem no_word {i : Instr} (h : i.kind ≠ .busWord ∧ i.kind ≠ .rawTransfer) : Statement i :=
  fun hk => absurd hk (by simp [h.1, h.2])

theorem init (cfg : SessionConfig) (allocOk : Bool) : Statement (.init cfg allocOk) := no_word (by simp [Instr.kind])
theorem clear : Statement .clear := no_word (by decide)
theorem home : Statement .home := no_word (by decide)
theorem setCursor (row col : Byte) : Statement (.setCursor row col) := no_word (by simp [Instr.kind])
theorem displayOn : Statement .displayOn := no_word (by decide)
theorem displayOff : Statement .displayOff := no_word (by decide)
theorem cursorOn : Statement .cursorOn := no_word (by decide)
theorem cursorOff : Statement .cursorOff := no_word (by decide)
theorem blinkOn : Statement .blinkOn := no_word (by decide)
theorem blinkOff : Statement .blinkOff := no_word (by decide)
theorem ltr : Statement .ltr := no_word (by decide)
theorem rtl : Statement .rtl := no_word (by decide)
theorem autoscrollOn : Statement .autoscrollOn := no_word (by decide)
theorem autoscrollOff : Statement .autoscrollOff := no_word (by decide)
theorem scrollLeft : Statement .scrollLeft := no_word (by decide)
theorem scrollRight : Statement .scrollRight := no_word (by decide)
theorem printChar (c : Byte) : Statement (.printChar c) := no_word (by simp [Instr.kind])
theorem printStr (s : List Byte) : Statement (.printStr s) := no_word (by simp [Instr.kind])
theorem printInt (v : Token) : Statement (.printInt v) := no_word (by simp [Instr.kind])
theorem printDec (v : Token) : Statement (.printDec v) := no_word (by simp [Instr.kind])
theorem pulse : Statement .pulse := no_word (by decide)
theorem setRs (rs : Bool) : Statement (.setRs rs) := no_word (by simp [Instr.kind])
theorem write8 (b : Byte) (rs : Bool) : Statement (.write8 b rs) := no_word (by simp [Instr.kind])
theorem write4 (b : Byte) (rs : Bool) : Statement (.write4 b rs) := no_word (by simp [Instr.kind])
theorem write (b : Byte) (rs : Bool) : Statement (.write b rs) := no_word (by simp [Instr.kind])
theorem poke (v : Byte) : Statement (.poke v) := no_word (by simp [Instr.kind])

end Sys2Proof.Laws.WordRoundTrip
end

