-- ==== Sys2Proof/Laws/Step.lean ====
section
/-! SUPPORT. What one step can do, said once. -/

namespace Sys2Proof.Machine

/-- If a step answers a next state, then the busy sequencer ran, or the block was idle with nothing to do, or a foreign
writer wrote, or the host's operation was decoded and executed. -/
theorem step_cases {s t : State} (h : step s = .next t) :
    (∃ ms, s.seq = .busy ms ∧ sequencerStep ms s = .next t) ∨
    (s.seq = .idle ∧ s.input = [] ∧ t = s) ∨
    (∃ a m v rest, s.seq = .idle ∧ s.input = .foreign a m v :: rest ∧
      foreignWrite a m v (s.withInput rest) = .next t) ∨
    (∃ n f rest i, s.seq = .idle ∧ s.input = .issue n f :: rest ∧ decode f = .ok i ∧
      exec i ((s.withInput rest).withCur n) = .next t) := by
  unfold step at h
  split at h
  · rename_i ms hs; exact .inl ⟨ms, hs, h⟩
  · rename_i hs
    split at h
    · rename_i hi; cases h; exact .inr (.inl ⟨hs, hi, rfl⟩)
    · rename_i a m v rest hi; exact .inr (.inr (.inl ⟨a, m, v, rest, hs, hi, h⟩))
    · rename_i n f rest hi
      split at h
      · cases h
      · rename_i i hd; exact .inr (.inr (.inr ⟨n, f, rest, i, hs, hi, hd, reportLine_next.1 h⟩))

/-- A busy step. -/
theorem step_busy {s : State} {m : MicroStep} {ms : List MicroStep} {r : SessionRegs}
    (hs : s.seq = .busy (m :: ms)) (hl : s.live = some r) :
    step s = .next ((perform m s).withSeq (Seq.ofSteps ms)) := by
  unfold step
  rw [hs]
  simp only [sequencerStep, hl]

end Sys2Proof.Machine
end

