-- ==== Sys2Proof/Laws/Steps.lean ====
section
/-! SUPPORT. The micro-step lists of the operations stay within the owned bits and hold no critical-section
micro-step; what lists within the owned bits leave of another session. -/

namespace Sys2Proof.Machine

/-! ### Owned masks -/

/-- A mask that is part of an owned mask writes owned bits only. -/
theorem owned_of_part {m o : Byte} (h : ∀ i, m.getLsbD i = true → o.getLsbD i = true) : m &&& ~~~o = 0 := by
  apply BitVec.eq_of_getLsbD_eq
  intro i hi
  rw [BitVec.getLsbD_and, BitVec.getLsbD_not]
  cases hm : m.getLsbD i with
  | false => simp
  | true => simp [h i hm, hi]

theorem owned_en (c : SessionConfig) : enMask c &&& ~~~ownedMask c c.ctrlPort = 0 :=
  owned_of_part fun i h => by simp [ownedMask, BitVec.getLsbD_or, h]

theorem owned_rs (c : SessionConfig) : rsMask c &&& ~~~ownedMask c c.ctrlPort = 0 :=
  owned_of_part fun i h => by simp [ownedMask, BitVec.getLsbD_or, h]

theorem owned_bus (c : SessionConfig) : busMask c &&& ~~~ownedMask c c.dataPort = 0 :=
  owned_of_part fun i h => by simp [ownedMask, BitVec.getLsbD_or, h]

theorem owned_busDdr (c : SessionConfig) : busMask c &&& ~~~ownedMask c c.dataDdr = 0 :=
  owned_of_part fun i h => by simp [ownedMask, BitVec.getLsbD_or, h]

theorem owned_ctrlDdr (c : SessionConfig) : (rsMask c ||| enMask c) &&& ~~~ownedMask c c.ctrlDdr = 0 :=
  owned_of_part fun i h => by
    rw [BitVec.getLsbD_or, Bool.or_eq_true] at h
    rcases h with h | h <;> simp [ownedMask, BitVec.getLsbD_or, h]

/-! ### The lists -/

/-- A list all of whose micro-steps its session may make, none of them of a critical section. -/
def Inside (c : SessionConfig) (ms : List MicroStep) : Prop := (∀ m ∈ ms, StepOk c m) ∧ Plain ms

theorem inside_nil (c : SessionConfig) : Inside c [] := ⟨by simp, by simp [Plain]⟩

theorem inside_append {c : SessionConfig} {ms ns : List MicroStep} (hm : Inside c ms) (hn : Inside c ns) :
    Inside c (ms ++ ns) := by
  refine ⟨fun m h => ?_, ?_, ?_⟩
  · rcases List.mem_append.1 h with h | h
    · exact hm.1 m h
    · exact hn.1 m h
  · simp [hm.2.1, hn.2.1]
  · simp [hm.2.2, hn.2.2]

theorem inside_pw {c : SessionConfig} {h : Handle} {m : Byte} (v : Byte) (hm : m &&& ~~~ownedMask c h = 0) :
    Inside c [.pw h m v] := ⟨by simpa [StepOk] using hm, by simp [Plain]⟩

theorem inside_dly (c : SessionConfig) (t : Duration) : Inside c [.dly t] := ⟨by simp [StepOk], by simp [Plain]⟩

theorem inside_cw {c : SessionConfig} {reg : CacheReg} {v : Byte} (h : CacheShape c reg v) : Inside c [.cw reg v] :=
  ⟨by simpa [StepOk] using h, by simp [Plain]⟩

theorem inside_pulse (c : SessionConfig) (t : Timing) : Inside c (pulseSteps c t) :=
  inside_append (inside_pw 0 (owned_en c)) <| inside_append (inside_dly c _) <|
    inside_append (inside_pw _ (owned_en c)) <| inside_append (inside_dly c _) <|
    inside_append (inside_pw 0 (owned_en c)) (inside_dly c _)

theorem inside_setRs (c : SessionConfig) (rs : Bool) : Inside c (setRsSteps c rs) := inside_pw _ (owned_rs c)

theorem inside_write (c : SessionConfig) (t : Timing) (b : Byte) (rs : Bool) : Inside c (writeSteps c t b rs) := by
  have hb := owned_bus c
  unfold writeSteps
  cases hw : c.busWidth with
  | fourBit =>
    rw [busMask, hw] at hb
    exact inside_append (inside_append (inside_append (inside_append (inside_setRs c rs) (inside_pw _ hb))
      (inside_pulse c t)) (inside_pw _ hb)) (inside_pulse c t)
  | eightBit =>
    rw [busMask, hw] at hb
    exact inside_append (inside_append (inside_setRs c rs) (inside_pw _ hb)) (inside_pulse c t)

theorem inside_poke (c : SessionConfig) (t : Timing) (v : Byte) : Inside c (pokeSteps c t v) :=
  inside_append (inside_pw v (owned_bus c)) (inside_pulse c t)

theorem inside_text (c : SessionConfig) (t : Timing) (bs : List Byte) : Inside c (textSteps c t bs) := by
  induction bs with
  | nil => exact inside_nil c
  | cons b bs ih => exact inside_append (inside_write c t b true) ih

/-- The inside of INIT's critical section: steps 2 to 9. -/
theorem initSteps_bracketed (c : SessionConfig) (t : Timing) :
    ∃ mid, Inside c mid ∧ initSteps c t = bracketed mid := by
  refine ⟨initStep2 c ++ initStep3 c t ++ initStep4 c t ++ initStep5 c t ++ initStep6 c t ++ initStep7 c t ++
    initStep8 c t ++ initStep9 c t, ?_, by simp [initSteps, bracketed, initStep1, initStep10]⟩
  have h2 : Inside c (initStep2 c) := inside_append (inside_pw _ (owned_busDdr c)) (inside_pw _ (owned_ctrlDdr c))
  have h3 : Inside c (initStep3 c t) :=
    inside_append (inside_pw 0 (owned_bus c)) (inside_append (inside_pw 0 (owned_rs c)) (inside_dly c _))
  have hp := inside_poke c t syncPattern
  have h4 : Inside c (initStep4 c t) :=
    inside_append (inside_append (inside_append (inside_append hp (inside_dly c _)) hp) (inside_dly c _)) hp
  have h5 : Inside c (initStep5 c t) := by
    unfold initStep5
    cases c.busWidth with
    | fourBit => exact inside_poke c t to4Pattern
    | eightBit => exact inside_nil c
  have h6 : Inside c (initStep6 c t) := inside_append (inside_write c t _ false) (inside_cw rfl)
  have h7 : Inside c (initStep7 c t) := inside_append (inside_write c t _ false) (inside_cw (by simp only [CacheShape]; decide))
  have h8 : Inside c (initStep8 c t) := inside_append (inside_write c t _ false) (inside_dly c _)
  have h9 : Inside c (initStep9 c t) := inside_append (inside_write c t _ false) (inside_cw (by simp only [CacheShape]; decide))
  exact inside_append (inside_append (inside_append (inside_append (inside_append (inside_append (inside_append h2 h3)
    h4) h5) h6) h7) h8) h9

/-- INIT writes every cache register. -/
theorem initSteps_loads (c : SessionConfig) (t : Timing) (reg : CacheReg) :
    ∃ v, MicroStep.cw reg v ∈ initSteps c t := by
  cases reg with
  | dc => exact ⟨initDC, by simp [initSteps, initStep7]⟩
  | em => exact ⟨initEM, by simp [initSteps, initStep9]⟩
  | fs => exact ⟨fsv c.busWidth, by simp [initSteps, initStep6]⟩

/-- A toggle keeps the fixed bits of a cache register (10_state.md R25, R26). -/
theorem toggled_fixed {old flag m k : Byte} (set : Bool) (h : old &&& m = k) (hf : flag &&& m = 0) :
    toggled old flag set &&& m = k := by
  have hb : ∀ i, (flag.getLsbD i && m.getLsbD i) = false := fun i => by
    rw [← BitVec.getLsbD_and, hf]; simp
  rw [← h]
  apply BitVec.eq_of_getLsbD_eq
  intro i hi
  have := hb i
  cases set
  · simp only [toggled, Bool.false_eq_true, if_false, BitVec.getLsbD_and, BitVec.getLsbD_not, hi, decide_true,
      Bool.true_and]
    revert this
    cases old.getLsbD i <;> cases flag.getLsbD i <;> cases m.getLsbD i <;> simp
  · simp only [toggled, if_true, BitVec.getLsbD_and, BitVec.getLsbD_or]
    revert this
    cases old.getLsbD i <;> cases flag.getLsbD i <;> cases m.getLsbD i <;> simp

/-! ### Other sessions -/

/-- Disturbing a session changes none of its registers. -/
@[simp] theorem disturbed_block (h : Handle) (m : Byte) (k n : Nat) (x : Session) :
    (disturbed h m k n x).block = x.block := by
  obtain e | ⟨r, rfl, e⟩ := disturbed_cases h m k n x
  · rw [e]
  · rw [e]; rfl

/-- A mask within one owned mask meets nothing that another one owns alone. -/
theorem apart_of_part {m o p : Byte} (hm : m &&& ~~~o = 0) (h : o &&& p = 0) : m &&& p = 0 := by
  apply BitVec.eq_of_getLsbD_eq
  intro i hi
  have a := congrArg (·.getLsbD i) hm
  have b := congrArg (·.getLsbD i) h
  simp only [BitVec.getLsbD_and, BitVec.getLsbD_not, hi, decide_true, Bool.true_and] at a b ⊢
  cases hx : m.getLsbD i <;> cases hy : o.getLsbD i <;> simp_all

theorem otherKept_refl (c : SessionConfig) (x : Option Session) : OtherKept c x x := ⟨rfl, fun _ => rfl⟩

theorem otherKept_trans {c : SessionConfig} {x y z : Option Session} (hxy : OtherKept c x y) (hyz : OtherKept c y z) :
    OtherKept c x z := by
  refine ⟨hyz.1.trans hxy.1, fun ha => ?_⟩
  have e := hxy.2 ha
  exact (hyz.2 (by rwa [e])).trans e

/-- A micro-step within the owned bits keeps every other session. -/
theorem perform_otherKept {s : State} {c : SessionConfig} {m : MicroStep} {k : Nat} (hm : StepOk c m)
    (hk : k ≠ s.cur) : OtherKept c s.sessions[k]? (perform m s).sessions[k]? := by
  obtain e | ⟨h, msk, v, n, rfl, e⟩ := perform_other m hk
  · rw [e]; exact otherKept_refl _ _
  · rw [e]
    cases hx : s.sessions[k]? with
    | none => exact otherKept_refl _ _
    | some x =>
      refine ⟨by simp, fun ha => ?_⟩
      rw [Option.map_some, disturbed_apart k n fun r hr => apart_of_part hm (ha r (by rw [hr]) h)]

/-- A list of micro-steps within the owned bits keeps every other session. -/
theorem performAll_otherKept {s : State} {c : SessionConfig} {ms : List MicroStep} {k : Nat}
    (hm : ∀ m ∈ ms, StepOk c m) (hk : k ≠ s.cur) : OtherKept c s.sessions[k]? (performAll ms s).sessions[k]? := by
  induction ms generalizing s with
  | nil => exact otherKept_refl _ _
  | cons m ms ih =>
    exact otherKept_trans (perform_otherKept (hm m (by simp)) hk)
      (ih (fun m' h => hm m' (by simp [h])) (by simpa using hk))

end Sys2Proof.Machine
end

