-- ==== Sys2Proof/Tests/Slice0.lean ====
section
/-! SUPPORT. Tests: the well-formedness smoke test, decoding of words written out from the spec, single steps taken
from 95_test_vectors.md, and a witness for the hypotheses of every statement. -/

namespace Sys2Proof.Tests

open Sys2Proof Sys2Proof.Machine

/-! ### Ill-formed terms, one for each check -/

theorem test_illFormed_functionSet : WellFormed (.functionSet true false false 0) = false := by decide
theorem test_illFormed_string : WellFormed (.printStr [0x41]) = false := by decide
theorem test_illFormed_int_empty : WellFormed (.printInt []) = false := by decide
theorem test_illFormed_int_comma : WellFormed (.printInt [0x34, 0x2C]) = false := by decide
theorem test_illFormed_dec_leadingSpace : WellFormed (.printDec [0x20, 0x34]) = false := by decide
theorem test_illFormed_dec_trailingSpace : WellFormed (.printDec [0x34, 0x20]) = false := by decide

/-- EX8 / EX4 of 40_bus_and_pulse.md with these formatting values. -/
def exCfg (w : BusWidth) (fmt : Fmt) : SessionConfig := { (exampleSession w 0).cfg with fmt := fmt }

theorem test_illFormed_init_screenSize : WellFormed (.init (exCfg .fourBit ⟨[], [1], [1], [1]⟩) true) = false := by
  decide
theorem test_illFormed_init_rowWidth : WellFormed (.init (exCfg .fourBit ⟨[1], [], [1], [1]⟩) true) = false := by decide
theorem test_illFormed_init_precision : WellFormed (.init (exCfg .fourBit ⟨[1], [1], [], [1]⟩) true) = false := by decide
theorem test_illFormed_init_base : WellFormed (.init (exCfg .fourBit ⟨[1], [1], [1], []⟩) true) = false := by decide

/-! ### Words written out bit by bit (RS, then B7..B0) from 30_encoding.md R74-R83 -/

theorem test_decode_clearWord : decodeTableWord 16 0b000000001 = some .clearWord := by decide
theorem test_decode_returnHome : decodeTableWord 16 0b000000011 = some (.returnHome true) := by decide
theorem test_decode_entryModeSet : decodeTableWord 16 0b000000110 = some (.entryModeSet true false) := by decide
theorem test_decode_displayControl : decodeTableWord 16 0b000001101 = some (.displayControl true false true) := by
  decide
theorem test_decode_shift : decodeTableWord 16 0b000011000 = some (.cursorDisplayShift true false 0) := by decide
theorem test_decode_functionSet : decodeTableWord 16 0b000111000 = some (.functionSet true true false 0) := by decide
theorem test_decode_setCgram : decodeTableWord 16 0b001010101 = some (.setCgramAddress 0x15) := by decide
theorem test_decode_setDdram : decodeTableWord 16 0b011000000 = some (.setDdramAddress 0x40) := by decide
theorem test_decode_dataWrite : decodeTableWord 16 0b100000001 = some (.dataWrite 0x01) := by decide
theorem test_decode_zero : decodeTableWord 16 0b000000000 = some .notEmittedZero := by decide
theorem test_decode_syncPoke8 : decodeTableWord 16 0b000110000 = some .syncPoke8 := by decide
theorem test_decode_syncPoke4 : decodeTableWord 8 0b00011 = some .syncPoke4 := by decide
theorem test_decode_to4Poke : decodeTableWord 8 0b00010 = some .to4Poke := by decide
theorem test_decode_tenthBit : decodeTableWord 16 0b1000000001 = none := by decide
theorem test_decode_otherNibble : decodeTableWord 8 0b00100 = none := by decide

/-! ### Host lines in the syntax of 30_encoding.md R87 -/

/-- What a host line, given by its characters, decodes to. -/
def line (cs : List Char) : Decoded := decode (.line true (chars cs))

theorem test_line_init :
    line ['I', 'N', 'I', 'T', ' ', '0', ',', ' ', '1', ',', ' ', '2', ',', ' ', '3', ',', ' ', '0', ',', ' ', '1', ',',
      ' ', 'E', 'I', 'G', 'H', 'T', ',', ' ', '3', '2', ',', ' ', '1', '6', ',', ' ', '2', ',', ' ', '1', '0'] =
    .ok (.init (exCfg .eightBit ⟨[0x33, 0x32], [0x31, 0x36], [0x32], [0x31, 0x30]⟩) true) := by decide
/-- The example of 41_init.md R130: handles by name. -/
theorem test_line_init_names :
    line ['I', 'N', 'I', 'T', ' ', 'P', '0', ',', ' ', 'D', 'D', 'R', '0', ',', ' ', 'P', '1', ',', ' ', 'D', 'D', 'R', '1',
      ',', ' ', '0', ',', ' ', '1', ',', ' ', 'E', 'I', 'G', 'H', 'T', ',', ' ', '3', '2', ',', ' ', '1', '6', ',', ' ',
      '2', ',', ' ', '1', '0'] =
    .ok (.init
      { exCfg .eightBit ⟨[0x33, 0x32], [0x31, 0x36], [0x32], [0x31, 0x30]⟩ with
        dataPort := nameHandle (chars ['P', '0']), dataDdr := nameHandle (chars ['D', 'D', 'R', '0']),
        ctrlPort := nameHandle (chars ['P', '1']), ctrlDdr := nameHandle (chars ['D', 'D', 'R', '1']) } true) := by
  decide
theorem test_line_clear : line ['C', 'L', 'E', 'A', 'R'] = .ok .clear := by decide
theorem test_line_home : line ['H', 'O', 'M', 'E'] = .ok .home := by decide
theorem test_line_setCursor :
    line ['S', 'E', 'T', 'C', 'U', 'R', 'S', 'O', 'R', ' ', '2', ',', ' ', '0', 'x', 'F', '0'] =
      .ok (.setCursor 2 0xF0) := by decide
theorem test_line_displayOn : line ['D', 'I', 'S', 'P', 'L', 'A', 'Y', '_', 'O', 'N'] = .ok .displayOn := by decide
theorem test_line_displayOff : line ['D', 'I', 'S', 'P', 'L', 'A', 'Y', '_', 'O', 'F', 'F'] = .ok .displayOff := by
  decide
theorem test_line_cursorOn : line ['C', 'U', 'R', 'S', 'O', 'R', '_', 'O', 'N'] = .ok .cursorOn := by decide
theorem test_line_cursorOff : line ['C', 'U', 'R', 'S', 'O', 'R', '_', 'O', 'F', 'F'] = .ok .cursorOff := by decide
theorem test_line_blinkOn : line ['B', 'L', 'I', 'N', 'K', '_', 'O', 'N'] = .ok .blinkOn := by decide
theorem test_line_blinkOff : line ['B', 'L', 'I', 'N', 'K', '_', 'O', 'F', 'F'] = .ok .blinkOff := by decide
theorem test_line_ltr : line ['L', 'T', 'R'] = .ok .ltr := by decide
theorem test_line_rtl : line ['R', 'T', 'L'] = .ok .rtl := by decide
theorem test_line_autoscrollOn :
    line ['A', 'U', 'T', 'O', 'S', 'C', 'R', 'O', 'L', 'L', '_', 'O', 'N'] = .ok .autoscrollOn := by decide
theorem test_line_autoscrollOff :
    line ['A', 'U', 'T', 'O', 'S', 'C', 'R', 'O', 'L', 'L', '_', 'O', 'F', 'F'] = .ok .autoscrollOff := by decide
theorem test_line_scrollLeft : line ['S', 'C', 'R', 'O', 'L', 'L', '_', 'L', 'E', 'F', 'T'] = .ok .scrollLeft := by
  decide
theorem test_line_scrollRight :
    line ['S', 'C', 'R', 'O', 'L', 'L', '_', 'R', 'I', 'G', 'H', 'T'] = .ok .scrollRight := by decide
theorem test_line_printChar :
    line ['P', 'R', 'I', 'N', 'T', '_', 'C', 'H', 'A', 'R', ' ', '0', 'x', '4', '1'] = .ok (.printChar 0x41) := by
  decide
theorem test_line_printStr :
    line ['P', 'R', 'I', 'N', 'T', '_', 'S', 'T', 'R', ' ', '"', 'H', 'i', '"'] =
      .ok (.printStr [0x48, 0x69, 0x00]) := by decide
theorem test_line_printInt :
    line ['P', 'R', 'I', 'N', 'T', '_', 'I', 'N', 'T', ' ', '4', '2'] = .ok (.printInt [0x34, 0x32]) := by decide
theorem test_line_printDec :
    line ['P', 'R', 'I', 'N', 'T', '_', 'D', 'E', 'C', ' ', '1', '.', '5'] = .ok (.printDec [0x31, 0x2E, 0x35]) := by
  decide

/-! ### Host text that R89 refuses -/

theorem test_refuse_mnemonic : line ['C', 'L', 'R'] = .bad .unknownMnemonic := by decide
theorem test_refuse_count : line ['H', 'O', 'M', 'E', ' ', '1'] = .bad .operandCount := by decide
theorem test_refuse_twoStrings :
    line ['P', 'R', 'I', 'N', 'T', '_', 'S', 'T', 'R', ' ', '"', 'A', '"', ',', ' ', '"', 'B', '"'] =
      .bad .operandCount := by decide
theorem test_accept_commaInString :
    line ['P', 'R', 'I', 'N', 'T', '_', 'S', 'T', 'R', ' ', '"', 'A', ',', 'B', '"'] =
      .ok (.printStr [0x41, 0x2C, 0x42, 0x00]) := by decide
theorem test_refuse_row :
    line ['S', 'E', 'T', 'C', 'U', 'R', 'S', 'O', 'R', ' ', '2', '5', '6', ',', '0'] = .bad .byteRange := by decide
theorem test_accept_row255 :
    line ['S', 'E', 'T', 'C', 'U', 'R', 'S', 'O', 'R', ' ', '2', '5', '5', ',', '7'] = .ok (.setCursor 255 7) := by decide
theorem test_refuse_string :
    line ['P', 'R', 'I', 'N', 'T', '_', 'S', 'T', 'R', ' ', '[', '6', '5', ']'] = .bad .unterminatedString := by decide
theorem test_refuse_pulse : line ['P', 'U', 'L', 'S', 'E'] = .bad .internalOperation := by decide

/-! ### Single steps and starts, from 95_test_vectors.md -/

/-- A ready machine with the session EX8 or EX4 and these ports: `P0`, `DDR0`, `P1`, `DDR1` at 0 to 3. -/
def ready (w : BusWidth) (p0 p1 : Byte) : State :=
  { State.reset with
    ie := true
    ports := Memory.write (Memory.write [] 0 p0) 2 p1
    sessions := [.valid (exampleSession w 0)] }

/-- The micro-steps that an operation starts. -/
def started (i : Instr) (s : State) : List MicroStep :=
  match exec i s with
  | .next t => t.seq.steps
  | .fault _ => []
  | .refused _ => []

/-- Why an operation is refused. -/
def refusedWith (i : Instr) (s : State) : Option Refusal :=
  match exec i s with
  | .next _ => none
  | .fault _ => none
  | .refused x => some x

/-- A PULSE of EX8 and EX4 at default timings (R100). -/
def exPulse : List MicroStep :=
  [.pw 2 0x02 0x00, .dly (.us 1), .pw 2 0x02 0x02, .dly (.us 1), .pw 2 0x02 0x00, .dly (.us 100)]

/-- The WRITE of an instruction byte in EX8 (R103). -/
def exWrite8 (b : Byte) : List MicroStep := [.pw 2 0x01 0x00, .pw 0 0xFF b] ++ exPulse

/-- PU1. -/
theorem test_pulse : started .pulse (ready .eightBit 0 0) = exPulse := by decide
/-- W1. -/
theorem test_write8 : started (.write8 0x41 true) (ready .eightBit 0 0) =
    [.pw 2 0x01 0x01, .pw 0 0xFF 0x41] ++ exPulse := by decide
/-- W4. -/
theorem test_write4 : started (.write4 0x41 true) (ready .fourBit 5 0) =
    [.pw 2 0x01 0x01, .pw 0 0xF0 0x40] ++ exPulse ++ [.pw 0 0xF0 0x10] ++ exPulse := by decide
/-- W6 by the dispatch. -/
theorem test_write : started (.write 0x00 false) (ready .fourBit 0xFF 1) =
    [.pw 2 0x01 0x00, .pw 0 0xF0 0x00] ++ exPulse ++ [.pw 0 0xF0 0x00] ++ exPulse := by decide
/-- PK2. -/
theorem test_poke : started (.poke 0x20) (ready .fourBit 0x0A 0x80) = .pw 0 0xF0 0x20 :: exPulse := by decide
theorem test_setRs : started (.setRs true) (ready .eightBit 0 0) = [.pw 2 0x01 0x01] := by decide
/-- An internal operation comes before what is left of the operation in progress. -/
theorem test_setRs_inside : started (.setRs false) ((ready .eightBit 0 0).withSeq (.busy [.csr])) =
    [.pw 2 0x01 0x00, .csr] := by decide
/-- CH1. -/
theorem test_clear : started .clear (ready .eightBit 0x06 0) =
    .cse :: (exWrite8 0x01 ++ [.dly (.ms 2), .csr]) := by decide
theorem test_home : started .home (ready .eightBit 0x06 0) = .cse :: (exWrite8 0x02 ++ [.dly (.ms 2), .csr]) := by decide
/-- Table SC: row 1, col 5. -/
theorem test_setCursor : started (.setCursor 1 5) (ready .eightBit 0 0) = .cse :: (exWrite8 0xC5 ++ [.csr]) := by decide
/-- Table SC: row 2, col 0xF0 wraps. -/
theorem test_setCursor_wraps : started (.setCursor 2 0xF0) (ready .eightBit 0 0) =
    .cse :: (exWrite8 0x84 ++ [.csr]) := by decide
/-- T1: resent. -/
theorem test_displayOn : started .displayOn (ready .eightBit 0 0) =
    .cse :: (exWrite8 0x0C ++ [.cw .dc 0x0C, .csr]) := by decide
/-- T2. -/
theorem test_displayOff : started .displayOff (ready .eightBit 0 0) =
    .cse :: (exWrite8 0x08 ++ [.cw .dc 0x08, .csr]) := by decide
/-- T4. -/
theorem test_cursorOn : started .cursorOn (ready .eightBit 0 0) =
    .cse :: (exWrite8 0x0E ++ [.cw .dc 0x0E, .csr]) := by decide
/-- T6. -/
theorem test_cursorOff : started .cursorOff (ready .eightBit 0 0) =
    .cse :: (exWrite8 0x0C ++ [.cw .dc 0x0C, .csr]) := by decide
/-- T9. -/
theorem test_blinkOn : started .blinkOn (ready .eightBit 0 0) =
    .cse :: (exWrite8 0x0D ++ [.cw .dc 0x0D, .csr]) := by decide
theorem test_blinkOff : started .blinkOff (ready .eightBit 0 0) =
    .cse :: (exWrite8 0x0C ++ [.cw .dc 0x0C, .csr]) := by decide
/-- T10. -/
theorem test_ltr : started .ltr (ready .eightBit 0 0) = .cse :: (exWrite8 0x06 ++ [.cw .em 0x06, .csr]) := by decide
/-- T11. -/
theorem test_rtl : started .rtl (ready .eightBit 0 0) = .cse :: (exWrite8 0x04 ++ [.cw .em 0x04, .csr]) := by decide
/-- T13. -/
theorem test_autoscrollOn : started .autoscrollOn (ready .eightBit 0 0) =
    .cse :: (exWrite8 0x07 ++ [.cw .em 0x07, .csr]) := by decide
theorem test_autoscrollOff : started .autoscrollOff (ready .eightBit 0 0) =
    .cse :: (exWrite8 0x06 ++ [.cw .em 0x06, .csr]) := by decide
/-- SR1. -/
theorem test_scrollLeft : started .scrollLeft (ready .eightBit 0 0) = .cse :: (exWrite8 0x18 ++ [.csr]) := by decide
/-- SR2. -/
theorem test_scrollRight : started .scrollRight (ready .eightBit 0 0) = .cse :: (exWrite8 0x1C ++ [.csr]) := by decide
/-- PC2: glyph 0 is sent. -/
theorem test_printChar : started (.printChar 0x00) (ready .eightBit 0 0) =
    .cse :: ([.pw 2 0x01 0x01, .pw 0 0xFF 0x00] ++ exPulse ++ [.csr]) := by decide
/-- PS3: bytes after the first 0x00 are ignored. -/
theorem test_printStr : started (.printStr [0x41, 0x00, 0x42, 0x00]) (ready .eightBit 0 0) =
    .cse :: ([.pw 2 0x01 0x01, .pw 0 0xFF 0x41] ++ exPulse ++ [.csr]) := by decide
/-- PS1: the empty string. -/
theorem test_printStr_empty : started (.printStr [0x00]) (ready .eightBit 0 0) = [.cse, .csr] := by decide
/-- PN3: a 0x00 in the formatter's output ends the text, for a formatter that gives [0x37, 0x00, 0x38]. -/
theorem test_printInt_text (c : SessionConfig) (v : Token) (h : Config.fmtInt c.fmt v = [0x37, 0x00, 0x38]) :
    stringText (intText c v) = [0x37] := by
  rw [intText, h]; decide
/-- PN2: a formatter that gives "1.5". -/
theorem test_printDec_text (c : SessionConfig) (v : Token) (h : Config.fmtDec c.fmt v = [0x31, 0x2E, 0x35]) :
    stringText (decText c v) = [0x31, 0x2E, 0x35] := by
  rw [decText, h]; decide
/-- I2, the first micro-steps: directions, quiet bus, power-on wait, the first SYNC. -/
theorem test_init : (started (.init (exCfg .fourBit ⟨[1], [1], [1], [1]⟩) true) State.reset).take 7 =
    [.cse, .pw 1 0xF0 0xF0, .pw 3 0x03 0x03, .pw 0 0xF0 0x00, .pw 2 0x01 0x00, .dly (.ms 50), .pw 0 0xF0 0x30] := by
  decide
/-- I5: RS = E. -/
theorem test_init_refused :
    refusedWith (.init { exCfg .eightBit ⟨[1], [1], [1], [1]⟩ with rsBit := 2, enBit := 2 } true) State.reset =
      some .badConfiguration := by decide
/-- The wire words of a session in EX8. -/
theorem test_entryModeSet : started (.entryModeSet false true) (ready .eightBit 0 0) =
    .cse :: (exWrite8 0x05 ++ [.cw .em 0x05, .csr]) := by decide
theorem test_displayControl : started (.displayControl true true false) (ready .eightBit 0 0) =
    .cse :: (exWrite8 0x0E ++ [.cw .dc 0x0E, .csr]) := by decide
theorem test_functionSet : started (.functionSet true true false 0) (ready .eightBit 0 0) =
    .cse :: (exWrite8 0x38 ++ [.cw .fs 0x38, .csr]) := by decide
theorem test_functionSet_otherWidth : refusedWith (.functionSet false true false 0) (ready .eightBit 0 0) =
    some .notEmitted := by decide
/-- R86: 0x3B is no byte of the block, on an invalid session either. -/
theorem test_functionSet_neverEmitted :
    refusedWith (.functionSet true true false 3) { State.reset with sessions := [.invalid] } = some .notEmitted := by
  decide
theorem test_shift_cursorMove : refusedWith (.cursorDisplayShift false true 0) (ready .eightBit 0 0) =
    some .notEmitted := by decide
theorem test_syncPoke8 : started .syncPoke8 (ready .eightBit 0 0) =
    .cse :: .pw 2 0x01 0x00 :: (.pw 0 0xFF 0x30 :: exPulse ++ [.csr]) := by decide
/-- R83: a raw poke has RS = 0, after a data write too. -/
theorem test_syncPoke8_rsLow :
    (performAll (started .syncPoke8 (ready .eightBit 0x41 0x01)) (ready .eightBit 0x41 0x01)).latched =
      [⟨0, false, .byte 0x30⟩] := by decide
theorem test_to4Poke : started .to4Poke (ready .fourBit 0 0) =
    .cse :: .pw 2 0x01 0x00 :: (.pw 0 0xF0 0x20 :: exPulse ++ [.csr]) := by decide

/-- W7's second port write, on the shared port `PB = 0x7D`: the data nibble 4, RS and the foreign bits kept. -/
theorem test_portWrite : (portWrite 0 0xF0 0x40 { State.reset with ports := [(0, 0x7D)] }).port 0 = 0x4D := by decide
/-- PU2's last port write: a falling edge with the foreign bits kept, latching RS = 0 and `P0`. -/
theorem test_portWrite_latches :
    (portWrite 2 0x02 0x00 (ready .eightBit 0x41 0xF2)).latched = [⟨0, false, .byte 0x41⟩] := by decide
/-- I6: CSE with IE = 0 saves 0. -/
theorem test_cse : (perform .cse { State.reset with ie := false, tok := true }).tok = false := by decide

/-- The host operation in front of the input is what an idle step runs. -/
theorem test_step_issue :
    (match step { State.reset with
        input := [.issue 0 (.line true (chars ['C', 'L', 'E', 'A', 'R']))], sessions := [.invalid] } with
      | .next t => t.input
      | _ => [.foreign 0 0 0]) = [] := by decide
/-- An operation before INIT is refused with its line. -/
theorem test_step_beforeInit :
    (match step { State.reset with input := [.issue 0 (.line true (chars ['H', 'O', 'M', 'E']))] } with
      | .refused x => some x
      | _ => none) = some (.rejected .noSession (.line true (chars ['H', 'O', 'M', 'E']))) := by decide
/-- P4 step 2: a foreign write of bit 0 of `P0`. -/
theorem test_step_foreign :
    (match step { ready .fourBit 0x6A 0x80 with input := [.foreign 0 0x01 0x01] } with
      | .next t => t.port 0
      | _ => 0) = 0x6B := by decide
/-- A placed word runs next, from reset. -/
theorem test_withFetchWord :
    (match step (State.reset.withFetchWord 16 0b101000001) with
      | .next t => t.seq.steps
      | _ => []) = .cse :: ([.pw 2 0x01 0x01, .pw 0 0xFF 0x41] ++ exPulse ++ [.csr]) := by decide

/-! ### Witnesses of the statements' hypotheses -/

/-- Ready, valid, with loaded caches, E low, and timing in order. -/
theorem witness_ready (w : BusWidth) :
    Ready (ready w 0 0) (exampleSession w 0) ∧ (ready w 0 0).live = some (exampleSession w 0) ∧
    validConfig (exampleSession w 0).cfg = true ∧ (exampleSession w 0).cfg.busWidth = w ∧
    (exampleSession w 0).dc = some 0x0C ∧ (exampleSession w 0).em = some 0x06 := by
  refine ⟨⟨rfl, rfl⟩, rfl, ?_, rfl, rfl, rfl⟩
  cases w <;> decide

/-- INIT's premises (InitConstructsASessionAndStarts, InitReturnsInTheKnownState, InitLatchesTheListedTransfers,
InitSynchronisesTheFrontEnd, FailedInitReturnsAnInvalidHandle, InitRefusesABadConfiguration), with a next state. -/
theorem witness_init (w : BusWidth) (n : Fmt) :
    State.reset.seq = .idle ∧ validConfig (exCfg w n) = true ∧ validTiming State.reset.timing = true ∧
    (exCfg w n).dataDdr ≠ (exCfg w n).dataPort ∧ ∃ t, exec (.init (exCfg w n) true) State.reset = .next t := by
  refine ⟨rfl, ?_, by decide, by simp [exCfg, exampleSession], ?_⟩
  · cases w <;> rfl
  · cases w <;> exact ⟨_, rfl⟩

/-- A shared port meets them as well (EXS). -/
theorem witness_init_shared :
    validConfig { exCfg .fourBit ⟨[1], [1], [1], [1]⟩ with ctrlPort := 0, ctrlDdr := 1 } = true := by decide

/-- Each way a configuration can be bad, at a boundary value (InitRefusesABadConfiguration). -/
theorem witness_badConfiguration :
    validConfig { exCfg .eightBit ⟨[1], [1], [1], [1]⟩ with enBit := 0 } = false ∧
    validConfig { exCfg .fourBit ⟨[1], [1], [1], [1]⟩ with ctrlPort := 0, ctrlDdr := 1, enBit := 4 } = false ∧
    validConfig { exCfg .fourBit ⟨[1], [1], [1], [1]⟩ with ctrlPort := 0 } = false ∧
    validConfig { exCfg .fourBit ⟨[1], [1], [1], [1]⟩ with dataDdr := 2 } = false ∧
    validTiming { defaultTiming with tExec := 36 } = false ∧ validTiming { defaultTiming with tExec := 37 } = true := by
  decide

/-- DecodeOfEncodeIsTheInstruction, DecodedInstructionIsWellFormed, HostMayNotIssueInternalOperations. -/
theorem witness_decode :
    WellFormed (.setCursor 255 0) = true ∧ (Instr.setCursor 255 0).kind ≠ .internalOp ∧
    decode (encode (.setCursor 255 0)) = .ok (.setCursor 255 0) ∧ (Instr.poke 0).kind = .internalOp := by decide

/-- LeadingOneSelectsTheBusWord: the smallest and largest byte of the clauses. -/
theorem witness_leadingOne :
    decodeBusWord false 0xFF = .setDdramAddress 0x7F ∧ decodeBusWord false 0x80 = .setDdramAddress 0 ∧
    decodeBusWord false 0x7F = .setCgramAddress 0x3F ∧ decodeBusWord false 0x40 = .setCgramAddress 0 ∧
    decodeBusWord false 0x3F = .functionSet true true true 3 ∧ decodeBusWord false 0x20 = .functionSet false false false 0 ∧
    decodeBusWord false 0x1F = .cursorDisplayShift true true 3 ∧
    decodeBusWord false 0x10 = .cursorDisplayShift false false 0 ∧
    decodeBusWord false 0x0F = .displayControl true true true ∧
    decodeBusWord false 0x08 = .displayControl false false false ∧
    decodeBusWord false 0x07 = .entryModeSet true true ∧ decodeBusWord false 0x04 = .entryModeSet false false ∧
    decodeBusWord false 0x03 = .returnHome true ∧ decodeBusWord false 0x02 = .returnHome false := by decide

/-- OutOfRangeHostTextIsRefused: each clause at its boundary. -/
theorem witness_outOfRange :
    decode (.line true (lineOf (.setCursor 0 0) [encodeNum 256, encodeNum 0])) = .bad .byteRange ∧
    decode (.line true (lineOf (.setCursor 0 0) [encodeNum 255, encodeNum 256])) = .bad .byteRange ∧
    decode (.line true (lineOf (.printChar 0) [encodeNum 256])) = .bad .byteRange ∧
    decode (.line true (lineOf (.printStr []) [encodeString []])) = .bad .unterminatedString ∧
    decode (.line true (lineOf (.init (exCfg .fourBit ⟨[1], [1], [1], [1]⟩) true)
      [encodeNum 0, encodeNum 1, encodeNum 2, encodeNum 3, encodeNum 8, encodeNum 0, encodeWidth .fourBit, [1], [1], [1],
       [1]])) = .bad .bitIndexRange ∧
    decode (.line true (lineOf (.init (exCfg .fourBit ⟨[1], [1], [1], [1]⟩) true)
      [encodeNum 0, encodeNum 1, encodeNum 2, encodeNum 3, encodeNum 7, encodeNum 8, encodeWidth .fourBit, [1], [1], [1],
       [1]])) = .bad .bitIndexRange ∧
    WellFormed (.init (exCfg .fourBit ⟨[1], [1], [1], [1]⟩) true) = true ∧ tokenOk (chars ['S', 'I', 'X']) = true ∧
    chars ['S', 'I', 'X'] ≠ encodeWidth .fourBit ∧ chars ['S', 'I', 'X'] ≠ encodeWidth .eightBit := by decide

/-- UnknownMnemonicAndWrongCountAreRefused: each clause. -/
theorem witness_count :
    (∀ i : Instr, nameOf i ≠ chars ['H']) ∧ tokenOk (chars ['1']) = true ∧ Instr.home ∈ plainOps ∧
    decode (.line true (lineOf (.setCursor 0 0) [])) = .bad .operandCount ∧
    decode (.line true (lineOf (.printChar 0) [])) = .bad .operandCount ∧
    decode (.line true (lineOf (.printInt []) [chars ['1'], chars ['2']])) = .bad .operandCount ∧
    decode (.line true (lineOf (.printDec []) [])) = .bad .operandCount ∧
    decode (.line true (lineOf (.init (exCfg .fourBit ⟨[1], [1], [1], [1]⟩) true) [chars ['1']])) = .bad .operandCount ∧
    decode (.line true (lineOf (.printStr []) ([[0x00], [0x00]].map encodeString))) = .bad .operandCount := by
  refine ⟨fun i => ?_, by decide, by decide, by decide, by decide, by decide, by decide, by decide, by decide⟩
  cases i <;> simp only [nameOf] <;> decide

/-- A state that meets the invariant with an operation in progress, about to return. -/
def returning : State := { ready .eightBit 0 0 with seq := .busy [.csr], ie := false, tok := true }

theorem witness_inv_busy : Inv returning := by
  refine ⟨by simp [PortsCanonical, returning, ready, Memory.write, Memory.unlisted, Memory.wf], ?_, fun _ => by decide,
    ⟨exampleSession .eightBit 0, rfl, by simp [StepOk], .inr ⟨[], by simp [Plain], rfl, rfl⟩⟩, ?_⟩
  · intro r hr
    have : r = exampleSession .eightBit 0 := by simpa [returning, ready] using hr
    subst this
    refine ⟨by decide, fun reg v h => ?_⟩
    cases reg <;> (cases h; simp only [CacheShape]; decide)
  · intro k r reg h
    left
    have : r = exampleSession .eightBit 0 := by
      have hm : Session.valid r ∈ returning.sessions := List.mem_of_getElem? h
      simpa [returning, ready] using hm
    subst this
    cases reg <;> simp [cacheOf, exampleSession]

/-- EveryStepKeepsTheInvariant, OnlyOwnedBitsChange, BusyStepPerformsTheHead, OperationRunsToItsReturn,
ConfigurationIsWrittenOnce, OperationNeedsAnIdleBlockAndASession. -/
theorem witness_step_busy :
    Inv returning ∧ returning.seq = .busy [.csr] ∧ returning.live = some (exampleSession .eightBit 0) ∧
    (∃ t, step returning = .next t) ∧ (Instr.clear).kind = .hostOp ∧ WellFormed .clear = true :=
  ⟨witness_inv_busy, rfl, rfl, ⟨_, rfl⟩, rfl, rfl⟩

/-- OtherSessionsAreUntouched: a second session, not the current one, over a step. -/
theorem witness_otherSession :
    ∃ s t : State, step s = .next t ∧ 1 < s.sessions.length ∧ 1 ≠ t.cur :=
  ⟨{ returning with sessions := returning.sessions ++ [.invalid] }, _, rfl, by decide, by decide⟩

/-- OtherSessionsAreUntouched, OtherKept: a session that owns nothing the write names, and one that does. -/
theorem witness_apart :
    OwnsApart (exampleSession .fourBit 0).cfg (some .invalid) ∧
    (0x02 : Byte) &&& ownedMask (exampleSession .fourBit 1).cfg 5 = 0 ∧
    (0x02 : Byte) &&& ownedMask (exampleSession .fourBit 1).cfg 2 ≠ 0 :=
  ⟨fun _ h => (by cases h), by decide, by decide⟩

/-- A write of another session's bits draws that session's receiver state anew and keeps its registers. -/
theorem test_overlap :
    (portWrite 2 0x02 0x02 { ready .eightBit 0 0 with
        sessions := [.valid (exampleSession .eightBit 0), .valid (exampleSession .eightBit 1)] }).sessions[1]? =
      some (.valid { exampleSession .eightBit 1 with rx := Config.rxFree 1 1 }) := rfl

/-- InvalidSessionMakesOperationsNoOps, InternalOperationsNeedTheirSession, ConfigurationIsWrittenOnce. -/
theorem witness_invalid :
    (⟨[], true, false, .idle, [.invalid], 0, defaultTiming, [], [], []⟩ : State).sessions[0]? = some .invalid ∧
    State.reset.sessions[State.reset.cur]? = none ∧ ∀ c a, Instr.clear ≠ .init c a :=
  ⟨rfl, rfl, fun _ _ h => by cases h⟩

/-- StepRunsTheDecodedInstruction, first clause: an operation that exec takes and one that it refuses for want of a
session. -/
theorem witness_step_exec :
    exec .home (ready .fourBit 0 0) ≠ .refused .unconstructed ∧ exec .home State.reset = .refused .unconstructed :=
  ⟨fun h => (by cases h), rfl⟩

/-- StepRunsTheDecodedInstruction, each clause. -/
theorem witness_step_idle :
    (∃ s : State, s.seq = .idle ∧ s.input = [.issue 0 (encode .home)] ∧ decode (encode .home) = .ok .home) ∧
    (∃ s : State, s.seq = .idle ∧ s.input = [.issue 0 (encode .pulse)] ∧
      decode (encode .pulse) = .bad .internalOperation) ∧
    (State.reset.seq = .idle ∧ State.reset.input = []) :=
  ⟨⟨{ State.reset with input := [.issue 0 (encode .home)] }, rfl, rfl, by decide⟩,
   ⟨{ State.reset with input := [.issue 0 (encode .pulse)] }, rfl, rfl, by decide⟩, rfl, rfl⟩

/-- PlacedWordRunsNext. -/
theorem witness_placed :
    (ready .fourBit 0 0).seq = .idle ∧ (ready .fourBit 0 0).live = some (exampleSession .fourBit 0) ∧
    decodeTableWord 8 0b00011 = some .syncPoke4 := ⟨rfl, rfl, by decide⟩

/-- ForeignWriteNeedsEnabledInterrupts, each clause: masked, an owned bit, a free bit. -/
theorem witness_foreign :
    (∃ s : State, s.seq = .idle ∧ s.input = [.foreign 0 1 1] ∧ s.ie = false) ∧
    (∃ s : State, s.seq = .idle ∧ s.input = [.foreign 0 0x10 0] ∧ s.ie = true ∧
      ∃ r, Session.valid r ∈ s.sessions ∧ (0x10 : Byte) &&& ownedMask r.cfg 0 ≠ 0) ∧
    (∃ s : State, s.seq = .idle ∧ s.input = [.foreign 0 0x08 0] ∧ s.ie = true ∧
      ∀ r, Session.valid r ∈ s.sessions → (0x08 : Byte) &&& ownedMask r.cfg 0 = 0) := by
  refine ⟨⟨{ State.reset with ie := false, input := [.foreign 0 1 1] }, rfl, rfl, rfl⟩,
    ⟨{ ready .fourBit 0 0 with input := [.foreign 0 0x10 0] }, rfl, rfl, rfl, exampleSession .fourBit 0,
      by simp [ready], by decide⟩,
    ⟨{ ready .fourBit 0 0 with input := [.foreign 0 0x08 0] }, rfl, rfl, rfl, fun r hr => ?_⟩⟩
  have : r = exampleSession .fourBit 0 := by simpa [ready] using hr
  subst this
  decide

/-- FallingEdgeLatchesTheLines: a write that is a falling edge, and one that is not. -/
theorem witness_edge :
    enableLine (ready .eightBit 0 0x02) (exampleSession .eightBit 0).cfg = true ∧
    enableLine (perform (.pw 2 0x02 0x00) (ready .eightBit 0 0x02)) (exampleSession .eightBit 0).cfg = false ∧
    enableLine (perform (.pw 2 0x01 0x00) (ready .eightBit 0 0x02)) (exampleSession .eightBit 0).cfg = true := by
  decide

/-- EnableHighOnEntryRepeatsTheFirstTransfer, and the transfers from E low: one state for each level of E. -/
theorem witness_enable :
    (ready .fourBit 0 0x02).live = some (exampleSession .fourBit 0) ∧
    validConfig (exampleSession .fourBit 0).cfg = true ∧
    enableLine (ready .fourBit 0 0x02) (exampleSession .fourBit 0).cfg = true ∧
    enableLine (ready .fourBit 0 0) (exampleSession .fourBit 0).cfg = false := ⟨rfl, by decide, by decide, by decide⟩

/-- PU4: with E high on entry the first port write of a PULSE latches too. -/
theorem test_pulse_enableHigh :
    (performAll (pulseSteps (exampleSession .eightBit 0).cfg defaultTiming) (ready .eightBit 0x41 0x02)).latched =
      [⟨0, false, .byte 0x41⟩, ⟨0, false, .byte 0x41⟩] := by decide

/-- PinsFollowOutputAndDirection: an output register and a direction register with driven pins. -/
theorem witness_pins :
    (0 : Handle) ≠ 1 ∧
    drivenPins (perform (.pw 0 0xF0 0x40) (perform (.pw 1 0xF0 0xF0) (ready .fourBit 0x05 0))) 0 1 = (0xF0, 0x40) := by
  decide

/-- DisplayTogglesCommute: different flags. -/
theorem witness_toggles : flagC &&& flagB = 0 ∧ flagD &&& flagC = 0 := by decide

/-- ToggleOfAnUnsetCacheFaults: a session whose caches hold no value yet. -/
theorem witness_unset (w : BusWidth) :
    ∃ s r, Ready s r ∧ r.dc = none ∧ r.em = none :=
  ⟨{ State.reset with sessions := [.valid (newSession (exampleSession w 0).cfg 0 0)] },
    newSession (exampleSession w 0).cfg 0 0, ⟨rfl, rfl⟩, rfl, rfl⟩

/-- PrintStrSendsUpToTheTerminator: texts without a terminator, the empty one among them. -/
theorem witness_text : (∀ b ∈ ([] : List Byte), b ≠ 0x00) ∧ ∀ b ∈ ([0x41, 0x42] : List Byte), b ≠ 0x00 := by decide

/-- The premise of ClearAndHomeSendOneByteAndWait and the other statements on an invalid session. -/
theorem witness_nothingWhenInvalid :
    ∃ s : State, s.seq = .idle ∧ s.sessions[s.cur]? = some .invalid :=
  ⟨{ State.reset with sessions := [.invalid] }, rfl, rfl⟩

/-- NeverEmittedWordsAreRefused: function sets other than 0x28 and 0x38, and the one of the other width. -/
theorem witness_neverEmitted :
    ¬(true = true ∧ false = false ∧ (1 : BitVec 2) = 0) ∧ ¬(false = true ∧ false = false ∧ (0 : BitVec 2) = 0) ∧
    false ≠ ((exampleSession .eightBit 0).cfg.busWidth == .eightBit) := by decide

end Sys2Proof.Tests
end

section
/-! SUPPORT. What each micro-step does, one equation each, and the proofs about reset, micro-steps and the trace
(00_scope.md). -/

namespace Sys2Proof.Machine

/-! ### Equations of the micro-steps (00_scope.md R14) -/

theorem perform_pw (h : Handle) (m v : Byte) (s : State) : perform (.pw h m v) s = portWrite h m v s := rfl

theorem perform_dly (d : Duration) (s : State) : perform (.dly d) s = { s with trace := s.trace ++ [.dly d] } := rfl

theorem perform_cse (s : State) :
    perform .cse s = { s with tok := s.ie, ie := false, trace := s.trace ++ [.cse] } := rfl

theorem perform_csr (s : State) : perform .csr s = { s with ie := s.tok, trace := s.trace ++ [.csr] } := rfl

/-- On a valid session, a cache write replaces that session's registers and nothing else. -/
theorem perform_cw {s : State} {r : SessionRegs} (reg : CacheReg) (v : Byte) (hs : s.live = some r) :
    perform (.cw reg v) s = { s with sessions := s.sessions.set s.cur (.valid (setCache r reg v)) } := by
  show cacheWrite reg v s = s.withLive (setCache r reg v)
  simp only [cacheWrite, hs]

/-- A cache write makes no event. -/
theorem perform_cw_trace (reg : CacheReg) (v : Byte) (s : State) : (perform (.cw reg v) s).trace = s.trace := by
  show (cacheWrite reg v s).trace = s.trace
  unfold cacheWrite
  cases s.live with
  | none => rfl
  | some r => exact State.withLive_trace s _

/-! ### What a port write records and leaves unchanged -/

/-- A port write is recorded with the value the register holds after it (00_scope.md R14, 20_memory.md R55). -/
@[simp] theorem portWrite_trace (h : Handle) (m v : Byte) (s : State) :
    (portWrite h m v s).trace = s.trace ++ [.pw h (masked (s.port h) m v)] := by
  rw [portWrite, latchEdge_trace, registerWrite_trace]

@[simp] theorem portWrite_ie (h : Handle) (m v : Byte) (s : State) : (portWrite h m v s).ie = s.ie := by
  rw [portWrite, latchEdge_ie, registerWrite_ie]

@[simp] theorem portWrite_tok (h : Handle) (m v : Byte) (s : State) : (portWrite h m v s).tok = s.tok := by
  rw [portWrite, latchEdge_tok, registerWrite_tok]

/-- The current session keeps its configuration and caches; only its receiver's state may change. -/
theorem portWrite_live {s : State} {r : SessionRegs} (h : Handle) (m v : Byte) (hs : s.live = some r) :
    ∃ rx, (portWrite h m v s).live = some { r with rx := rx } :=
  latchEdge_live h _ _ ((registerWrite_live h m v s).trans hs)

/-! ### The trace of a list of micro-steps -/

/-- A micro-step appends its own event, or none for a cache write. -/
theorem perform_trace (m : MicroStep) (s : State) :
    ∃ es, (perform m s).trace = s.trace ++ es ∧ es.map Event.shape = [m].filterMap MicroStep.shape := by
  cases m with
  | pw h m v => exact ⟨[.pw h (masked (s.port h) m v)], portWrite_trace h m v s, rfl⟩
  | dly d => exact ⟨[.dly d], rfl, rfl⟩
  | cse => exact ⟨[.cse], rfl, rfl⟩
  | csr => exact ⟨[.csr], rfl, rfl⟩
  | cw reg v => exact ⟨[], by rw [perform_cw_trace, List.append_nil], rfl⟩

/-- A list of micro-steps appends its events in list order (20_memory.md R59). -/
theorem performAll_trace (ms : List MicroStep) (s : State) :
    ∃ es, (performAll ms s).trace = s.trace ++ es ∧ es.map Event.shape = ms.filterMap MicroStep.shape := by
  induction ms generalizing s with
  | nil => exact ⟨[], (List.append_nil _).symm, rfl⟩
  | cons m ms ih =>
    obtain ⟨es, htrace, hshape⟩ := perform_trace m s
    obtain ⟨fs, htraces, hshapes⟩ := ih (perform m s)
    refine ⟨es ++ fs, ?_, ?_⟩
    · rw [performAll_cons, htraces, htrace, List.append_assoc]
    · rw [List.map_append, hshape, hshapes, ← List.filterMap_append, List.singleton_append]

/-! ### Operations before the first INIT (10_state.md R36) -/

theorem exec_clear (s : State) : exec .clear s = startPublic s (longBody codeClear) := rfl

theorem exec_displayOn (s : State) : exec .displayOn s = startToggle s .dc flagD true := rfl

theorem startPublic_unconstructed {s : State} (body : SessionConfig → Timing → List MicroStep)
    (hi : s.seq = .idle) (hn : s.sessions[s.cur]? = none) : startPublic s body = .refused .unconstructed :=
  onSession_unconstructed _ hi hn

theorem startToggle_unconstructed {s : State} (reg : CacheReg) (flag : Byte) (set : Bool)
    (hi : s.seq = .idle) (hn : s.sessions[s.cur]? = none) : startToggle s reg flag set = .refused .unconstructed :=
  onSession_unconstructed _ hi hn

/-! ### The obligations -/

/-- Settles O20: the ports by the laws of the register file, the rest by the frame of the edge detector. -/
theorem portWriteIsAMaskedUpdate : Obligations.PortWriteIsAMaskedUpdate := by
  intro s h m v
  exact ⟨portWrite_same h m v s, fun a ha => portWrite_other m v ha, portWrite_trace h m v s, portWrite_ie h m v s,
    portWrite_tok h m v s, perform_seq _ s, perform_input _ s, fun r hr => portWrite_live h m v hr⟩

/-- Settles O25, by induction on the list. -/
theorem traceFollowsTheMicroSteps : Obligations.TraceFollowsTheMicroSteps := performAll_trace

/-- Settles O7: the reset state is a literal, and the wrapper refuses both operations for want of a session. -/
theorem resetHasNoSession : Obligations.ResetHasNoSession := by
  refine ⟨rfl, rfl, rfl, rfl, rfl, ?_, ?_⟩
  · rw [exec_clear]; exact startPublic_unconstructed _ rfl rfl
  · rw [exec_displayOn]; exact startToggle_unconstructed _ _ _ rfl rfl

/-- Settles O23, by the equations of the two micro-steps. -/
theorem criticalSectionSavesAndRestoresIE : Obligations.CriticalSectionSavesAndRestoresIE :=
  ⟨perform_cse, perform_csr⟩

/-- Settles O24, by the equations of the two micro-steps, the cache write's once for each cache register. -/
theorem waitAndCacheWriteEffects : Obligations.WaitAndCacheWriteEffects :=
  ⟨fun s d => perform_dly d s, fun _ _ v hr => ⟨perform_cw .dc v hr, perform_cw .em v hr, perform_cw .fs v hr⟩⟩

end Sys2Proof.Machine
end

section
/-! SUPPORT. What the host can issue: a line decodes to a host operation, a word to a bus word or a raw transfer
(30_encoding.md R70-R89). -/

namespace Sys2Proof

/-- Whatever is decoded is a host operation. -/
def Decoded.OnlyHostOp (d : Decoded) : Prop := ∀ i, d = .ok i → i.kind = .hostOp

theorem Decoded.onlyHostOp_bad (r : Reject) : Decoded.OnlyHostOp (.bad r) := fun _ h => by cases h

theorem Decoded.onlyHostOp_ok {i : Instr} (hi : i.kind = .hostOp) : Decoded.OnlyHostOp (.ok i) :=
  fun _ h => by cases h; exact hi

theorem Decoded.onlyHostOp_ofExcept {α : Type} {e : Except Reject α} {k : α → Decoded}
    (hk : ∀ a, (k a).OnlyHostOp) : (Decoded.ofExcept e k).OnlyHostOp := by
  cases e with
  | error r => exact onlyHostOp_bad r
  | ok a => exact hk a

open Decoded

theorem decodeInit_onlyHostOp (allocOk : Bool) (ts : List Token) : (decodeInit allocOk ts).OnlyHostOp := by
  unfold decodeInit
  split
  · iterate 11 refine onlyHostOp_ofExcept fun _ => ?_
    exact onlyHostOp_ok rfl
  · exact onlyHostOp_bad _

theorem decodeSetCursor_onlyHostOp (ts : List Token) : (decodeSetCursor ts).OnlyHostOp := by
  unfold decodeSetCursor
  split
  · exact onlyHostOp_ofExcept fun _ => onlyHostOp_ofExcept fun _ => onlyHostOp_ok rfl
  · exact onlyHostOp_bad _

theorem decodePrintChar_onlyHostOp (ts : List Token) : (decodePrintChar ts).OnlyHostOp := by
  unfold decodePrintChar
  split
  · exact onlyHostOp_ofExcept fun _ => onlyHostOp_ok rfl
  · exact onlyHostOp_bad _

theorem decodePrintInt_onlyHostOp (ts : List Token) : (decodePrintInt ts).OnlyHostOp := by
  unfold decodePrintInt
  split
  · exact onlyHostOp_ofExcept fun _ => onlyHostOp_ok rfl
  · exact onlyHostOp_bad _

theorem decodePrintDec_onlyHostOp (ts : List Token) : (decodePrintDec ts).OnlyHostOp := by
  unfold decodePrintDec
  split
  · exact onlyHostOp_ofExcept fun _ => onlyHostOp_ok rfl
  · exact onlyHostOp_bad _

theorem plainOps_hostOp : ∀ i ∈ plainOps, i.kind = .hostOp := by decide

/-- A line the decoder accepts is a host operation (30_encoding.md R89). -/
theorem decodeLine_onlyHostOp (allocOk : Bool) (text : List Byte) : (decodeLine allocOk text).OnlyHostOp := by
  unfold decodeLine
  dsimp only
  split
  · rename_i i hfind
    split
    · exact onlyHostOp_ok (plainOps_hostOp i (List.mem_of_find?_eq_some hfind))
    · exact onlyHostOp_bad _
  · split_ifs
    · exact decodeInit_onlyHostOp _ _
    · exact decodeSetCursor_onlyHostOp _
    · exact decodePrintChar_onlyHostOp _
    · exact onlyHostOp_ofExcept fun _ => onlyHostOp_ok rfl
    · exact decodePrintInt_onlyHostOp _
    · exact decodePrintDec_onlyHostOp _
    · exact onlyHostOp_bad _
    · exact onlyHostOp_bad _

theorem decodeBusWord_kind (rs : Bool) (b : Byte) : (decodeBusWord rs b).kind = .busWord := by
  unfold decodeBusWord
  split_ifs <;> rfl

theorem decodeTransfer9_kind (rs : Bool) (b : Byte) : (decodeTransfer9 rs b).kind ≠ .internalOp := by
  unfold decodeTransfer9
  split
  · decide
  · rw [decodeBusWord_kind]; decide

/-- A word the decoder accepts is no internal operation. -/
theorem decodeWord_kind {bytes : List Byte} {i : Instr} (h : decodeWord bytes = .ok i) : i.kind ≠ .internalOp := by
  unfold decodeWord at h
  split at h
  · split_ifs at h <;> cases h <;> decide
  · split_ifs at h <;> cases h <;> exact decodeTransfer9_kind _ _
  · cases h

/-- What the decoder accepts is no internal operation (30_encoding.md R89). -/
theorem decode_kind {f : Fetched} {i : Instr} (h : decode f = .ok i) : i.kind ≠ .internalOp := by
  cases f with
  | line allocOk text => rw [decodeLine_onlyHostOp allocOk text i h]; decide
  | word bytes => exact decodeWord_kind h

end Sys2Proof
end

section
/-! SUPPORT. What a micro-step leaves of every session, of `IE`, of the bits its session does not own, and that it does
not look at the sequencer. -/

namespace Sys2Proof.Machine

/-! ### The sessions under a micro-step -/

/-- The registers that a micro-step of their own session leaves, the receiver's state apart. -/
def cachedBy (m : MicroStep) (r : SessionRegs) : SessionRegs :=
  match m with
  | .cw reg v => setCache r reg v
  | .pw _ _ _ | .dly _ | .cse | .csr => r

@[simp] theorem cachedBy_cfg (m : MicroStep) (r : SessionRegs) : (cachedBy m r).cfg = r.cfg := by
  cases m with
  | cw reg v => exact setCache_cfg r reg v
  | pw | dly | cse | csr => rfl

/-- The receiver's state is no cache register. -/
@[simp] theorem cacheOf_withRx (r : SessionRegs) (rx : Receiver) (reg : CacheReg) :
    cacheOf { r with rx := rx } reg = cacheOf r reg := by cases reg <;> rfl

/-- After a micro-step a cache register holds what the micro-step wrote to it, or what it held before. -/
theorem cacheOf_cachedBy (m : MicroStep) (r : SessionRegs) (reg : CacheReg) :
    (∃ v, m = .cw reg v ∧ cacheOf (cachedBy m r) reg = some v) ∨
      ((∀ v, m ≠ .cw reg v) ∧ cacheOf (cachedBy m r) reg = cacheOf r reg) := by
  cases m with
  | cw reg' v =>
    by_cases hreg : reg = reg'
    · subst hreg; exact .inl ⟨v, rfl, cacheOf_setCache_same r reg v⟩
    · exact .inr ⟨fun v h => hreg (by cases h; rfl), cacheOf_setCache_other hreg⟩
  | pw | dly | cse | csr => exact .inr ⟨fun v h => (by cases h), rfl⟩

/-- A register write does not touch the current session, valid or not. -/
theorem registerWrite_current (h : Handle) (m v : Byte) (s : State) :
    (registerWrite h m v s).sessions[s.cur]? = s.sessions[s.cur]? := by
  refine (disturbOthers_getElem? h m s.cur _ 0 s.cur s.sessions).trans ?_
  simp

/-- With no valid session current, a micro-step leaves the current place of the list as it is. -/
theorem perform_current_dead {s : State} (m : MicroStep) (hs : s.live = none) :
    (perform m s).sessions[s.cur]? = s.sessions[s.cur]? := by
  cases m with
  | pw h m v =>
    rw [perform_pw, portWrite]
    obtain ⟨e, -⟩ | ⟨r, hr, -, -⟩ := latchEdge_cases h (s.port h) (masked (s.port h) m v) (registerWrite h m v s)
    · rw [e, registerWrite_current]
    · rw [registerWrite_live, hs] at hr; cases hr
  | dly | cse | csr => rfl
  | cw reg v =>
    show (cacheWrite reg v s).sessions[s.cur]? = _
    simp only [cacheWrite, hs]

/-- The current valid session after a micro-step. -/
theorem perform_current_live {s : State} {r : SessionRegs} (m : MicroStep) (hs : s.live = some r) :
    ∃ rx, (perform m s).live = some { cachedBy m r with rx := rx } := by
  cases m with
  | pw h m v => exact portWrite_live h m v hs
  | dly | cse | csr => exact ⟨r.rx, hs⟩
  | cw reg v =>
    refine ⟨(setCache r reg v).rx, ?_⟩
    show (cacheWrite reg v s).live = _
    simp only [cacheWrite, hs]
    exact State.withLive_live _ hs

/-- A micro-step makes no session and takes none away. -/
theorem perform_absent {s : State} {k : Nat} (m : MicroStep) (hk : s.sessions[k]? = none) :
    (perform m s).sessions[k]? = none := by
  by_cases hc : k = s.cur
  · subst hc
    rw [perform_current_dead m (by simp only [State.live, hk]), hk]
  · obtain e | ⟨h, msk, v, n, -, e⟩ := perform_other m hc <;> rw [e, hk]
    rfl

/-- An invalid session stays invalid under every micro-step. -/
theorem perform_invalid {s : State} {k : Nat} (m : MicroStep) (hk : s.sessions[k]? = some .invalid) :
    (perform m s).sessions[k]? = some .invalid := by
  by_cases hc : k = s.cur
  · subst hc
    rw [perform_current_dead m (by simp only [State.live, hk]), hk]
  · obtain e | ⟨h, msk, v, n, -, e⟩ := perform_other m hc <;> rw [e, hk]
    rfl

/-- A valid session after a micro-step: the current one may have a cache register written, and of each one the
receiver's state may be another. -/
theorem perform_valid {s : State} {k : Nat} {r : SessionRegs} (m : MicroStep)
    (hk : s.sessions[k]? = some (.valid r)) :
    ∃ rx, (perform m s).sessions[k]? = some (.valid { (if k = s.cur then cachedBy m r else r) with rx := rx }) := by
  by_cases hc : k = s.cur
  · subst hc
    obtain ⟨rx, e⟩ := perform_current_live m (State.live_eq_some.2 hk)
    exact ⟨rx, by simpa using State.live_eq_some.1 e⟩
  · rw [if_neg hc]
    obtain e | ⟨h, msk, v, n, -, e⟩ := perform_other m hc
    · exact ⟨r.rx, by rw [e, hk]⟩
    · rw [e, hk, Option.map_some]
      obtain e | ⟨r', hr, e⟩ := disturbed_cases h msk k n (.valid r)
      · exact ⟨r.rx, by rw [e]⟩
      · cases hr; exact ⟨_, by rw [e]⟩

/-- Every valid session after a micro-step was valid before it. -/
theorem valid_of_perform {s : State} {k : Nat} {m : MicroStep} {r' : SessionRegs}
    (hk : (perform m s).sessions[k]? = some (.valid r')) :
    ∃ r rx, s.sessions[k]? = some (.valid r) ∧
      r' = { (if k = s.cur then cachedBy m r else r) with rx := rx } := by
  cases hs : s.sessions[k]? with
  | none => rw [perform_absent m hs] at hk; cases hk
  | some x =>
    cases x with
    | invalid => rw [perform_invalid m hs] at hk; cases hk
    | valid r =>
      obtain ⟨rx, e⟩ := perform_valid m hs
      rw [e] at hk
      cases hk
      exact ⟨r, rx, rfl, rfl⟩

/-! ### `IE`, the owned bits, the sequencer -/

/-- Only the critical-section micro-steps change `IE` (10_state.md R32). -/
theorem perform_ie {m : MicroStep} (s : State) (he : m ≠ .cse) (hr : m ≠ .csr) : (perform m s).ie = s.ie := by
  cases m with
  | pw h m v => exact portWrite_ie h m v s
  | dly => rfl
  | cse => exact absurd rfl he
  | csr => exact absurd rfl hr
  | cw reg v =>
    show (cacheWrite reg v s).ie = s.ie
    unfold cacheWrite
    cases s.live <;> rfl

/-- A masked update within the bits `o` leaves the bits outside `o`. -/
theorem masked_outside_part {m o : Byte} (old v : Byte) (hm : m &&& ~~~o = 0) :
    masked old m v &&& ~~~o = old &&& ~~~o := by
  apply BitVec.eq_of_getLsbD_eq
  intro i hi
  have hbit := congrArg (·.getLsbD i) hm
  simp only [BitVec.getLsbD_and, BitVec.getLsbD_not, hi, decide_true, Bool.true_and] at hbit
  rw [BitVec.getLsbD_and, BitVec.getLsbD_and, BitVec.getLsbD_not, masked_bit]
  cases ho : o.getLsbD i with
  | true => simp [hi]
  | false =>
    have : m.getLsbD i = false := by simpa [ho] using hbit
    simp [this]

/-- A micro-step other than a port write changes no host register. -/
theorem perform_port {m : MicroStep} (s : State) (a : Handle) (hm : ∀ h msk v, m ≠ .pw h msk v) :
    (perform m s).port a = s.port a := by
  cases m with
  | pw h msk v => exact absurd rfl (hm h msk v)
  | dly | cse | csr => rfl
  | cw reg v =>
    show (cacheWrite reg v s).port a = s.port a
    unfold cacheWrite
    cases s.live <;> rfl

/-- A micro-step that its session may make changes no bit outside the owned ones (10_state.md R33). -/
theorem perform_outside_owned {c : SessionConfig} {m : MicroStep} (s : State) (a : Handle) (hm : StepOk c m) :
    (perform m s).port a &&& ~~~ownedMask c a = s.port a &&& ~~~ownedMask c a := by
  cases m with
  | pw h msk v =>
    rw [perform_pw]
    by_cases ha : a = h
    · subst ha; rw [portWrite_same, masked_outside_part _ _ hm]
    · rw [portWrite_other _ _ ha]
  | dly | cse | csr | cw => rw [perform_port s a fun _ _ _ h => by cases h]

theorem latchEdge_withSeq (h : Handle) (old new : Byte) (s : State) (x : Seq) :
    latchEdge h old new (s.withSeq x) = (latchEdge h old new s).withSeq x := by
  unfold latchEdge
  rw [State.withSeq_live]
  cases s.live with
  | none => rfl
  | some r =>
    dsimp only
    split <;> rfl

/-- A micro-step neither reads nor writes the sequencer. -/
theorem perform_withSeq (m : MicroStep) (s : State) (x : Seq) :
    perform m (s.withSeq x) = (perform m s).withSeq x := by
  cases m with
  | pw h m v => exact latchEdge_withSeq h _ _ (registerWrite h m v s) x
  | dly | cse | csr => rfl
  | cw reg v =>
    show cacheWrite reg v (s.withSeq x) = (cacheWrite reg v s).withSeq x
    unfold cacheWrite
    rw [State.withSeq_live]
    cases s.live <;> rfl

theorem performAll_withSeq (ms : List MicroStep) (s : State) (x : Seq) :
    performAll ms (s.withSeq x) = (performAll ms s).withSeq x := by
  induction ms generalizing s with
  | nil => rfl
  | cons m ms ih => rw [performAll_cons, perform_withSeq, ih, performAll_cons]

/-! ### Runs of a busy sequencer -/

theorem Seq.ofSteps_eq_ite (ms : List MicroStep) : Seq.ofSteps ms = if ms = [] then .idle else .busy ms := by
  cases ms <;> rfl

/-- A run whose first step answers a state goes on from that state. -/
theorem run_succ {M : Host.Core} {s s' : M.State} (k : Nat) (h : M.step s = .next s') :
    M.run (k + 1) s = M.run k s' := by
  simp only [Host.Core.run, h]

/-- As many steps as micro-steps are left perform them all and leave the sequencer idle (10_state.md R31). -/
theorem run_ofSteps {s : State} {r : SessionRegs} (ms : List MicroStep) (hs : s.seq = .ofSteps ms)
    (hl : s.live = some r) : Sys2Proof.core.run ms.length s = .next ((performAll ms s).withSeq .idle) := by
  induction ms generalizing s r with
  | nil =>
    have hself : s.withSeq .idle = s := by rw [← Seq.ofSteps_nil, ← hs]; rfl
    rw [performAll_nil, hself]
    rfl
  | cons m ms ih =>
    have hstep : Sys2Proof.core.step s = .next ((perform m s).withSeq (Seq.ofSteps ms)) := step_busy hs hl
    obtain ⟨r', hl', -⟩ := perform_live m hl
    have hrest := ih (s := (perform m s).withSeq (Seq.ofSteps ms)) rfl hl'
    rw [performAll_withSeq] at hrest
    exact (run_succ ms.length hstep).trans hrest

end Sys2Proof.Machine
end

section
/-! SUPPORT. What the meaning of an instruction can do, said once: a session's operation starts one critical section
within the owned bits (10_state.md R31, R33, R36), INIT constructs a session (41_init.md R130, R144). -/

namespace Sys2Proof.Machine

/-! ### Bodies within the owned bits -/

/-- A session's cache registers have their fixed bits (10_state.md R25-R27). -/
def CachesShaped (r : SessionRegs) : Prop := ∀ reg v, cacheOf r reg = some v → CacheShape r.cfg reg v

theorem inside_longBody (b : Byte) (c : SessionConfig) (t : Timing) : Inside c (longBody b c t) :=
  inside_append (inside_write c t b false) (inside_dly c _)

theorem inside_cachedBody {c : SessionConfig} {reg : CacheReg} {b : Byte} (t : Timing) (hb : CacheShape c reg b) :
    Inside c (cachedBody reg b c t) :=
  inside_append (inside_write c t b false) (inside_cw hb)

theorem cacheShape_entryMode (c : SessionConfig) (id sh : Bool) :
    CacheShape c .em (codeEntryMode ||| flagIf id flagID ||| flagIf sh flagS) := by
  show (codeEntryMode ||| flagIf id flagID ||| flagIf sh flagS) &&& 0xFC = 0x04
  revert id sh
  decide

theorem cacheShape_displayControl (c : SessionConfig) (d cu b : Bool) :
    CacheShape c .dc (codeDisplayControl ||| flagIf d flagD ||| flagIf cu flagC ||| flagIf b flagB) := by
  show (codeDisplayControl ||| flagIf d flagD ||| flagIf cu flagC ||| flagIf b flagB) &&& 0xF8 = 0x08
  revert d cu b
  decide

/-! ### Operations on a session -/

/-- An operation in the wrapper of every operation on an existing session, whose continuation, where it answers a next
state, starts one critical section; on a session with shaped caches that stays within the owned bits. -/
def SessionOperation (i : Instr) : Prop :=
  ∀ s, ∃ k, exec i s = onSession s k ∧ ∀ r t, k r = .next t →
    ∃ mid, t = s.withSeq (.busy (bracketed mid)) ∧ (CachesShaped r → Inside r.cfg mid)

theorem sessionOperation_public {i : Instr} {body : SessionConfig → Timing → List MicroStep}
    (hi : ∀ s, exec i s = startPublic s body) (hbody : ∀ c t, Inside c (body c t)) : SessionOperation i :=
  fun s => ⟨_, hi s, fun r t h => by cases h; exact ⟨body r.cfg s.timing, rfl, fun _ => hbody _ _⟩⟩

theorem sessionOperation_toggle {i : Instr} {reg : CacheReg} {flag : Byte} {set : Bool}
    (hi : ∀ s, exec i s = startToggle s reg flag set)
    (hflag : ∀ c old, CacheShape c reg old → CacheShape c reg (toggled old flag set)) : SessionOperation i := by
  refine fun s => ⟨_, hi s, fun r t h => ?_⟩
  cases hc : cacheOf r reg with
  | none => rw [hc] at h; cases h
  | some old =>
    rw [hc] at h
    cases h
    exact ⟨_, rfl, fun hr => inside_cachedBody s.timing (hflag _ _ (hr reg old hc))⟩

theorem sessionOperation_toggleDC {i : Instr} {flag : Byte} {set : Bool}
    (hi : ∀ s, exec i s = startToggle s .dc flag set) (hflag : flag &&& 0xF8 = 0) : SessionOperation i :=
  sessionOperation_toggle hi fun _ _ h => toggled_fixed set h hflag

theorem sessionOperation_toggleEM {i : Instr} {flag : Byte} {set : Bool}
    (hi : ∀ s, exec i s = startToggle s .em flag set) (hflag : flag &&& 0xFC = 0) : SessionOperation i :=
  sessionOperation_toggle hi fun _ _ h => toggled_fixed set h hflag

theorem sessionOperation_poke {i : Instr} {w : BusWidth} {v : Byte} (hi : ∀ s, exec i s = emitPoke s w v) :
    SessionOperation i := by
  refine fun s => ⟨_, hi s, fun r t h => ?_⟩
  split at h
  · cases h
    exact ⟨_, rfl, fun _ => inside_append (inside_setRs r.cfg false) (inside_poke r.cfg s.timing v)⟩
  · cases h

theorem functionSet_meaning (dl n f : Bool) (x : BitVec 2) :
    SessionOperation (.functionSet dl n f x) ∨ ∀ s, exec (.functionSet dl n f x) s = .refused .notEmitted := by
  by_cases hb : wordByte (.functionSet dl n f x) = fsv .fourBit ∨ wordByte (.functionSet dl n f x) = fsv .eightBit
  · refine .inl fun s => ⟨_, if_pos hb, fun r t h => ?_⟩
    split at h
    · rename_i hw
      cases h
      exact ⟨_, rfl, fun _ => inside_cachedBody s.timing hw⟩
    · cases h
  · exact .inr fun s => if_neg hb

/-- Every instruction but INIT and the internal operations is an operation on a session, or is refused in every state;
the latter is so of no well-formed host operation. -/
theorem meaning_cases {i : Instr} (hk : i.kind ≠ .internalOp) (hinit : ∀ c a, i ≠ .init c a) :
    SessionOperation i ∨ ∃ x, (∀ s, exec i s = .refused x) ∧ (i.kind = .hostOp → WellFormed i = false) := by
  cases i with
  | clearWord | returnHome | clear | home => exact .inl (sessionOperation_public (fun _ => rfl) (inside_longBody _))
  | entryModeSet id sh =>
    exact .inl (sessionOperation_public (fun _ => rfl) fun c t => inside_cachedBody t (cacheShape_entryMode c id sh))
  | displayControl d cu b =>
    exact .inl (sessionOperation_public (fun _ => rfl) fun c t =>
      inside_cachedBody t (cacheShape_displayControl c d cu b))
  | cursorDisplayShift sc rl x =>
    cases sc with
    | false => exact .inr ⟨.notEmitted, fun _ => rfl, nofun⟩
    | true => exact .inl (sessionOperation_public (fun _ => rfl) fun c t => inside_write c t _ false)
  | functionSet dl n f x => exact (functionSet_meaning dl n f x).imp_right fun h => ⟨.notEmitted, h, nofun⟩
  | setCgramAddress | notEmittedZero => exact .inr ⟨.notEmitted, fun _ => rfl, nofun⟩
  | setDdramAddress | setCursor | scrollLeft | scrollRight =>
    exact .inl (sessionOperation_public (fun _ => rfl) fun c t => inside_write c t _ false)
  | dataWrite d => exact .inl (sessionOperation_public (fun _ => rfl) fun c t => inside_write c t d true)
  | syncPoke8 | syncPoke4 | to4Poke => exact .inl (sessionOperation_poke fun _ => rfl)
  | init c a => exact absurd rfl (hinit c a)
  | displayOn | displayOff | cursorOn | cursorOff | blinkOn | blinkOff =>
    exact .inl (sessionOperation_toggleDC (fun _ => rfl) (by decide))
  | ltr | rtl | autoscrollOn | autoscrollOff => exact .inl (sessionOperation_toggleEM (fun _ => rfl) (by decide))
  | printChar ch => exact .inl (sessionOperation_public (fun _ => rfl) fun c t => inside_write c t ch true)
  | printStr str =>
    cases hz : str.contains terminator with
    | true => exact .inl (sessionOperation_public (fun s => if_pos hz) fun c t => inside_text c t _)
    | false => exact .inr ⟨.unterminatedString, fun s => if_neg (ne_true_of_eq_false hz), fun _ => hz⟩
  | printInt v =>
    exact .inl (sessionOperation_public (body := fun c t => textSteps c t (stringText (intText c v)))
      (fun _ => rfl) fun c t => inside_text c t _)
  | printDec v =>
    exact .inl (sessionOperation_public (body := fun c t => textSteps c t (stringText (decText c v)))
      (fun _ => rfl) fun c t => inside_text c t _)
  | pulse | setRs | write8 | write4 | write | poke => exact absurd rfl hk

/-! ### INIT -/

theorem execInit_busy {s : State} {ms : List MicroStep} (c : SessionConfig) (a : Bool) (hs : s.seq = .busy ms) :
    execInit c a s = .refused .sequencerBusy := by
  unfold execInit
  rw [hs]

theorem execInit_failed {s : State} (c : SessionConfig) (hs : s.seq = .idle) :
    execInit c false s = .next (addSession s .invalid) := by
  unfold execInit
  rw [hs]
  rfl

theorem execInit_bad {s : State} {c : SessionConfig} (hs : s.seq = .idle)
    (hbad : (validConfig c && validTiming s.timing) = false) : execInit c true s = .refused .badConfiguration := by
  simp only [execInit, hs, hbad, Bool.true_eq_false, if_false, if_true]

/-- The ten steps are not empty, so `SEQ` is busy with them. -/
theorem ofSteps_initSteps (c : SessionConfig) (t : Timing) : Seq.ofSteps (initSteps c t) = .busy (initSteps c t) := by
  obtain ⟨mid, -, h⟩ := initSteps_bracketed c t
  rw [h]
  rfl

/-- The state in which an accepted INIT starts its ten steps (41_init.md R130). -/
def initStarted (c : SessionConfig) (s : State) : State :=
  (addSession s (.valid (newSession c s.sessions.length s.trace.length))).withSeq (.busy (initSteps c s.timing))

theorem execInit_accepted {s : State} {c : SessionConfig} (hs : s.seq = .idle) (hc : validConfig c = true)
    (ht : validTiming s.timing = true) : execInit c true s = .next (initStarted c s) := by
  simp only [execInit, hs, hc, ht, Bool.and_self, Bool.true_eq_false, if_false, start, ofSteps_initSteps, initStarted]

/-! ### All instructions that the decoder gives -/

/-- If an instruction that is no internal operation answers a next state, the sequencer was idle, and nothing happened,
or a valid session started one critical section, or INIT added a session. -/
theorem exec_next {i : Instr} {s t : State} (hk : i.kind ≠ .internalOp) (h : exec i s = .next t) :
    s.seq = .idle ∧
      (t = s ∨
       (∃ r mid, s.live = some r ∧ (CachesShaped r → Inside r.cfg mid) ∧ t = s.withSeq (.busy (bracketed mid))) ∨
       t = addSession s .invalid ∨
       ∃ c, validConfig c = true ∧ validTiming s.timing = true ∧ t = initStarted c s) := by
  by_cases hinit : ∃ c a, i = .init c a
  · obtain ⟨c, a, rfl⟩ := hinit
    change execInit c a s = .next t at h
    cases hs : s.seq with
    | busy ms => rw [execInit_busy c a hs] at h; cases h
    | idle =>
      refine ⟨rfl, .inr (.inr ?_)⟩
      cases a with
      | false => rw [execInit_failed c hs] at h; cases h; exact .inl rfl
      | true =>
        cases hv : validConfig c && validTiming s.timing with
        | false => rw [execInit_bad hs hv] at h; cases h
        | true =>
          obtain ⟨hc, ht⟩ := Bool.and_eq_true_iff.1 hv
          rw [execInit_accepted hs hc ht] at h
          cases h
          exact .inr ⟨c, hc, ht, rfl⟩
  · obtain hop | ⟨x, hx, -⟩ := meaning_cases hk fun c a e => hinit ⟨c, a, e⟩
    · obtain ⟨k, he, hbody⟩ := hop s
      rw [he] at h
      obtain ⟨hs, ⟨-, ht⟩ | ⟨r, hl, hr⟩⟩ := onSession_next h
      · exact ⟨hs, .inl ht⟩
      · obtain ⟨mid, ht, hin⟩ := hbody r t hr
        exact ⟨hs, .inr (.inl ⟨r, mid, hl, hin, ht⟩)⟩
    · rw [hx] at h; cases h

end Sys2Proof.Machine
end

section
/-! SUPPORT. The invariant under a micro-step, under the start of an operation, and under INIT. -/

namespace Sys2Proof.Machine

/-! ### What is left of a critical section -/

/-- A critical section within the owned bits of the valid session in front is what `SEQ` may hold. -/
theorem seqOk_bracketed {s : State} {r : SessionRegs} {mid : List MicroStep} (hs : s.seq = .busy (bracketed mid))
    (hl : s.live = some r) (hmid : Inside r.cfg mid) : SeqOk s := by
  obtain ⟨hsteps, hplain⟩ := hmid
  rw [SeqOk, hs]
  refine ⟨r, hl, fun m hm => ?_, .inl ⟨mid, hplain, rfl⟩⟩
  rw [bracketed, List.mem_cons, List.mem_append, List.mem_singleton] at hm
  obtain rfl | hm | rfl := hm
  · trivial
  · exact hsteps m hm
  · trivial

/-- Of an operation's critical section something is left until it returns. -/
theorem Bracketed.ne_nil {ie : Bool} {ms : List MicroStep} (h : Bracketed ie ms) : ms ≠ [] := by
  obtain ⟨mid, -, rfl⟩ | ⟨mid, -, rfl, -⟩ := h
  · exact List.cons_ne_nil _ _
  · simp

/-- When the head micro-step of a critical section is performed, either all of it is done, or its inside is left and
`IE` is 0 (20_memory.md R61). -/
theorem Bracketed.tail {s : State} {m : MicroStep} {ms : List MicroStep} (h : Bracketed s.ie (m :: ms)) :
    ms = [] ∨ Bracketed (perform m s).ie ms := by
  obtain ⟨mid, hmid, e⟩ | ⟨mid, hmid, e, hie⟩ := h
  · cases e
    exact .inr (.inr ⟨mid, hmid, rfl, rfl⟩)
  · cases mid with
    | nil => cases e; exact .inl rfl
    | cons m' mid =>
      cases e
      obtain ⟨hcse, hcsr⟩ := hmid
      rw [List.mem_cons, not_or] at hcse hcsr
      have hkept : (perform m s).ie = s.ie := perform_ie s (Ne.symm hcse.1) (Ne.symm hcsr.1)
      exact .inr (.inr ⟨mid, ⟨hcse.2, hcsr.2⟩, rfl, hkept.trans hie⟩)

/-! ### A busy step -/

/-- A micro-step that its session may make keeps the fixed bits of every cache register. -/
theorem cachesShaped_perform {m : MicroStep} {r : SessionRegs} (hm : StepOk r.cfg m) (hr : CachesShaped r) :
    CachesShaped (cachedBy m r) := by
  intro reg v hv
  rw [cachedBy_cfg]
  obtain ⟨v', rfl, e⟩ | ⟨-, e⟩ := cacheOf_cachedBy m r reg
  · rw [e] at hv; cases hv; exact hm
  · exact hr reg v (e.symm.trans hv)

theorem cachesShaped_withRx {r : SessionRegs} (rx : Receiver) (hr : CachesShaped r) :
    CachesShaped { r with rx := rx } := by
  intro reg v hv
  rw [cacheOf_withRx] at hv
  exact hr reg v hv

theorem sessionsOk_perform {s : State} {m : MicroStep} {r : SessionRegs} (hl : s.live = some r)
    (hm : StepOk r.cfg m) (hs : SessionsOk s) : SessionsOk (perform m s) := by
  intro r₂ hr₂
  obtain ⟨k, hk⟩ := List.mem_iff_getElem?.1 hr₂
  obtain ⟨r₁, rx, hk₁, rfl⟩ := valid_of_perform hk
  obtain ⟨hcfg, hshape⟩ := hs r₁ (List.mem_of_getElem? hk₁)
  by_cases hc : k = s.cur
  · subst hc
    cases (State.live_eq_some.2 hk₁).symm.trans hl
    rw [if_pos rfl]
    exact ⟨by rw [cachedBy_cfg]; exact hcfg, cachesShaped_withRx rx (cachesShaped_perform hm hshape)⟩
  · rw [if_neg hc]
    exact ⟨hcfg, cachesShaped_withRx rx hshape⟩

theorem timingOk_perform {s : State} (m : MicroStep) (hs : TimingOk s) : TimingOk (perform m s) := by
  rintro ⟨r₂, hr₂⟩
  obtain ⟨k, hk⟩ := List.mem_iff_getElem?.1 hr₂
  obtain ⟨r₁, rx, hk₁, -⟩ := valid_of_perform hk
  rw [perform_timing]
  exact hs ⟨r₁, List.mem_of_getElem? hk₁⟩

theorem cachesLoaded_perform {s : State} {m : MicroStep} {ms : List MicroStep} (hseq : s.seq = .busy (m :: ms))
    (hs : CachesLoaded s) : CachesLoaded ((perform m s).withSeq (Seq.ofSteps ms)) := by
  intro k r₂ reg hk
  obtain ⟨r₁, rx, hk₁, rfl⟩ := valid_of_perform hk
  rw [cacheOf_withRx, State.withSeq_cur, perform_cur, State.withSeq_seq, Seq.steps_ofSteps]
  have hbefore := hs k r₁ reg hk₁
  rw [hseq, Seq.steps_busy] at hbefore
  by_cases hc : k = s.cur
  · rw [if_pos hc]
    obtain ⟨v, -, e⟩ | ⟨hother, e⟩ := cacheOf_cachedBy m r₁ reg
    · exact .inl (by simp [e])
    · rw [e]
      refine hbefore.imp_right fun ⟨_, v, hv⟩ => ⟨hc, v, ?_⟩
      exact (List.mem_cons.1 hv).resolve_left fun h => hother v h.symm
  · rw [if_neg hc]
    exact .inl (hbefore.resolve_right fun h => hc h.1)

theorem seqOk_perform {s : State} {m : MicroStep} {ms : List MicroStep} {r : SessionRegs} (hl : s.live = some r)
    (hms : ∀ m' ∈ m :: ms, StepOk r.cfg m') (hb : Bracketed s.ie (m :: ms)) :
    SeqOk ((perform m s).withSeq (Seq.ofSteps ms)) := by
  cases ms with
  | nil => trivial
  | cons m' ms =>
    obtain ⟨r', hl', hcfg⟩ := perform_live m hl
    refine ⟨r', hl', fun a ha => ?_, hb.tail.resolve_left (List.cons_ne_nil _ _)⟩
    rw [hcfg]
    exact hms a (List.mem_cons_of_mem _ ha)

/-- The busy sequencer keeps the invariant. -/
theorem sequencerStep_inv {s t : State} {ms : List MicroStep} (hs : Inv s) (hseq : s.seq = .busy ms)
    (h : sequencerStep ms s = .next t) : Inv t := by
  obtain ⟨hports, hsess, htime, hok, hload⟩ := hs
  rw [SeqOk, hseq] at hok
  obtain ⟨r, hl, hsteps, hbr⟩ := hok
  obtain ⟨hnil, -⟩ | ⟨m, rest, -, rfl, -, rfl⟩ := sequencerStep_next h
  · exact absurd hnil hbr.ne_nil
  · exact ⟨perform_wf m hports, sessionsOk_perform hl (hsteps m (by simp)) hsess, timingOk_perform m htime,
      seqOk_perform hl hsteps hbr, cachesLoaded_perform hseq hload⟩

/-! ### An idle step -/

/-- Every cache register of every valid session holds a value. -/
def AllCachesLoaded (s : State) : Prop :=
  ∀ (k : Nat) r reg, s.sessions[k]? = some (.valid r) → cacheOf r reg ≠ none

/-- With an idle sequencer the invariant speaks of the ports, the sessions and the timing only. -/
theorem inv_idle_iff {s : State} (hs : s.seq = .idle) :
    Inv s ↔ PortsCanonical s ∧ SessionsOk s ∧ TimingOk s ∧ AllCachesLoaded s := by
  have hseq : SeqOk s := by rw [SeqOk, hs]; trivial
  have hload : CachesLoaded s ↔ AllCachesLoaded s := by simp [CachesLoaded, AllCachesLoaded, hs]
  rw [Inv, hload]
  tauto

/-- Taking an event and selecting a session keeps the invariant of an idle block. -/
theorem inv_select {s : State} (rest : List HostEvent) (n : Nat) (hs : s.seq = .idle) (h : Inv s) :
    Inv ((s.withInput rest).withCur n) :=
  (inv_idle_iff (s := (s.withInput rest).withCur n) hs).2 ((inv_idle_iff hs).1 h)

/-- Taking a foreign write's event and performing it keeps the invariant of an idle block. -/
theorem inv_foreign {s t : State} {a : Handle} {m v : Byte} {rest : List HostEvent} (hs : s.seq = .idle) (h : Inv s)
    (e : foreignWrite a m v (s.withInput rest) = .next t) : Inv t := by
  obtain ⟨-, -, rfl⟩ := foreignWrite_next e
  obtain ⟨hports, hrest⟩ := (inv_idle_iff hs).1 h
  refine (inv_idle_iff ?_).2 ⟨Memory.write_wf _ _ hports, hrest⟩
  exact hs

/-- Starting one critical section within the owned bits of a valid session keeps the invariant. -/
theorem inv_start {s : State} {r : SessionRegs} {mid : List MicroStep} (hs : s.seq = .idle) (h : Inv s)
    (hl : s.live = some r) (hmid : Inside r.cfg mid) : Inv (s.withSeq (.busy (bracketed mid))) := by
  obtain ⟨hports, hsess, htime, hload⟩ := (inv_idle_iff hs).1 h
  exact ⟨hports, hsess, htime, seqOk_bracketed rfl hl hmid, fun k r' reg hk => .inl (hload k r' reg hk)⟩

/-! ### INIT -/

/-- A valid session of the list with a session appended is an old one, or the new one. -/
theorem addSession_valid {s : State} {x : Session} {k : Nat} {r : SessionRegs}
    (h : (addSession s x).sessions[k]? = some (.valid r)) :
    s.sessions[k]? = some (.valid r) ∨ (k = s.sessions.length ∧ x = .valid r) := by
  change (s.sessions ++ [x])[k]? = some (.valid r) at h
  obtain hk | hk := Nat.lt_or_ge k s.sessions.length
  · rw [List.getElem?_append_left hk] at h; exact .inl h
  · rw [List.getElem?_append_right hk, List.getElem?_singleton] at h
    split at h
    · rename_i h0
      cases h
      exact .inr ⟨by omega, rfl⟩
    · cases h

theorem addSession_mem {s : State} {x y : Session} : y ∈ (addSession s x).sessions ↔ y ∈ s.sessions ∨ y = x := by
  show y ∈ s.sessions ++ [x] ↔ _
  rw [List.mem_append, List.mem_singleton]

/-- A failed INIT keeps the invariant. -/
theorem inv_addInvalid {s : State} (hs : s.seq = .idle) (h : Inv s) : Inv (addSession s .invalid) := by
  obtain ⟨hports, hsess, htime, hload⟩ := (inv_idle_iff hs).1 h
  have hold : ∀ r, Session.valid r ∈ (addSession s .invalid).sessions → Session.valid r ∈ s.sessions :=
    fun r hr => (addSession_mem.1 hr).resolve_right nofun
  refine (inv_idle_iff (s := addSession s .invalid) hs).2
    ⟨hports, fun r hr => hsess r (hold r hr), fun ⟨r, hr⟩ => htime ⟨r, hold r hr⟩, fun k r reg hk => ?_⟩
  exact hload k r reg ((addSession_valid hk).resolve_right nofun)

/-- An accepted INIT keeps the invariant: the new session's caches hold no value, but the ten steps write them all. -/
theorem inv_initStarted {s : State} {c : SessionConfig} (hs : s.seq = .idle) (h : Inv s) (hc : validConfig c = true)
    (ht : validTiming s.timing = true) : Inv (initStarted c s) := by
  obtain ⟨hports, hsess, htime, hload⟩ := (inv_idle_iff hs).1 h
  have hlive : (initStarted c s).live = some (newSession c s.sessions.length s.trace.length) :=
    State.live_eq_some.2 (by simp [initStarted, addSession])
  obtain ⟨mid, hmid, e⟩ := initSteps_bracketed c s.timing
  refine ⟨hports, fun r hr => ?_, fun _ => ht, seqOk_bracketed (congrArg Seq.busy e) hlive hmid, fun k r reg hk => ?_⟩
  · obtain hr | hr := addSession_mem.1 hr
    · exact hsess r hr
    · cases hr
      exact ⟨hc, fun reg v hv => by cases reg <;> cases hv⟩
  · obtain hk | ⟨hk, -⟩ := addSession_valid hk
    · exact .inl (hload k r reg hk)
    · exact .inr ⟨hk, initSteps_loads c s.timing reg⟩

/-- An instruction that is no internal operation keeps the invariant of an idle block. -/
theorem exec_inv {i : Instr} {s t : State} (hk : i.kind ≠ .internalOp) (h : Inv s) (e : exec i s = .next t) :
    Inv t := by
  obtain ⟨hs, rfl | ⟨r, mid, hl, hin, rfl⟩ | rfl | ⟨c, hc, ht, rfl⟩⟩ := exec_next hk e
  · exact h
  · have hsess : SessionsOk s := h.2.1
    obtain ⟨-, hshape⟩ := hsess r (List.mem_of_getElem? (State.live_eq_some.1 hl))
    exact inv_start hs h hl (hin hshape)
  · exact inv_addInvalid hs h
  · exact inv_initStarted hs h hc ht

/-- Settles O9: one lemma for each way in which a step can answer a next state. -/
theorem everyStepKeepsTheInvariant : Obligations.EveryStepKeepsTheInvariant := by
  intro s t h e
  obtain ⟨ms, hs, e⟩ | ⟨-, -, rfl⟩ | ⟨a, m, v, rest, hs, -, e⟩ | ⟨n, f, rest, i, hs, -, hd, e⟩ := step_cases e
  · exact sequencerStep_inv h hs e
  · exact h
  · exact inv_foreign hs h e
  · exact exec_inv (decode_kind hd) (inv_select rest n hs h) e

end Sys2Proof.Machine
end

section
/-! SUPPORT. The other proofs about the state (10_state.md): sessions over a step, a busy sequencer, an idle step, pins,
INIT's checks, unset caches. -/

namespace Sys2Proof.Machine

/-! ### Sessions over a step -/

/-- A place of the list of sessions keeps what it holds: a valid session its configuration, an invalid one its
invalidity. -/
def SessionKept (x y : Option Session) : Prop :=
  (∀ r, x = some (.valid r) → ∃ r', y = some (.valid r') ∧ r'.cfg = r.cfg) ∧
  (x = some .invalid → y = some .invalid)

theorem sessionKept_refl (x : Option Session) : SessionKept x x := ⟨fun r hr => ⟨r, hr, rfl⟩, id⟩

theorem perform_sessionKept (m : MicroStep) (s : State) (k : Nat) :
    SessionKept s.sessions[k]? (perform m s).sessions[k]? := by
  refine ⟨fun r hr => ?_, perform_invalid m⟩
  obtain ⟨rx, e⟩ := perform_valid m hr
  refine ⟨_, e, ?_⟩
  show (if k = s.cur then cachedBy m r else r).cfg = r.cfg
  split
  · exact cachedBy_cfg m r
  · rfl

theorem addSession_sessionKept (s : State) (x : Session) (k : Nat) :
    SessionKept s.sessions[k]? (addSession s x).sessions[k]? := by
  have hold : ∀ y, s.sessions[k]? = some y → (addSession s x).sessions[k]? = some y := fun y hy =>
    (List.getElem?_append_left (List.getElem?_eq_some_iff.1 hy).1).trans hy
  exact ⟨fun r hr => ⟨r, hold _ hr, rfl⟩, hold _⟩

/-- Settles O10: a busy step performs a micro-step, a foreign write leaves the sessions alone, and an operation leaves
them or appends one. -/
theorem configurationIsWrittenOnce : Obligations.ConfigurationIsWrittenOnce := by
  intro s t k h
  show SessionKept s.sessions[k]? t.sessions[k]?
  obtain ⟨ms, -, e⟩ | ⟨-, -, rfl⟩ | ⟨a, m, v, rest, -, -, e⟩ | ⟨n, f, rest, i, -, -, hd, e⟩ := step_cases h
  · obtain ⟨-, rfl⟩ | ⟨m, rest, r, -, -, rfl⟩ := sequencerStep_next e
    · exact sessionKept_refl _
    · exact perform_sessionKept m s k
  · exact sessionKept_refl _
  · obtain ⟨-, -, rfl⟩ := foreignWrite_next e
    exact sessionKept_refl _
  · obtain ⟨-, rfl | ⟨r, mid, -, -, rfl⟩ | rfl | ⟨c, -, -, rfl⟩⟩ := exec_next (decode_kind hd) e
    · exact sessionKept_refl _
    · exact sessionKept_refl _
    · exact addSession_sessionKept ((s.withInput rest).withCur n) _ k
    · exact addSession_sessionKept ((s.withInput rest).withCur n) _ k

/-! ### A busy sequencer -/

/-- Settles O12: the invariant says that the head micro-step stays within the owned bits. -/
theorem onlyOwnedBitsChange : Obligations.OnlyOwnedBitsChange := by
  intro s t ms r hinv hs hl h a
  obtain ⟨-, -, -, hok, -⟩ := hinv
  rw [SeqOk, hs] at hok
  obtain ⟨r', hl', hsteps, -⟩ := hok
  cases hl.symm.trans hl'
  rw [step, hs] at h
  obtain ⟨-, rfl⟩ | ⟨m, rest, -, rfl, -, rfl⟩ := sequencerStep_next h
  · rfl
  · exact perform_outside_owned s a (hsteps m (by simp))

/-- Settles O16, by induction on the micro-steps that are left (`run_ofSteps`). -/
theorem operationRunsToItsReturn : Obligations.OperationRunsToItsReturn := by
  intro s ms r hs hne hl
  have hseq : s.seq = .ofSteps ms := by rw [hs, Seq.ofSteps_eq_ite, if_neg hne]
  obtain ⟨-, -, -, hinput⟩ := performAll_fixed s.seq.steps s
  refine ⟨?_, rfl, hinput⟩
  rw [State.complete, hs, Seq.steps_busy]
  exact run_ofSteps ms hseq hl

/-- Settles O15: the busy step of the step laws, with the sequencer that is left written as a case distinction. -/
theorem busyStepPerformsTheHead : Obligations.BusyStepPerformsTheHead := by
  intro s m ms r hs hl
  exact ⟨_, step_busy hs hl, by rw [Seq.ofSteps_eq_ite], perform_input m s⟩

/-! ### An idle step -/

theorem step_issue {s : State} {n : Nat} {f : Fetched} {rest : List HostEvent} {i : Instr} (hs : s.seq = .idle)
    (hi : s.input = .issue n f :: rest) (hd : decode f = .ok i) :
    step s = reportLine f (exec i ((s.withInput rest).withCur n)) := by
  simp only [step, hs, hi, hd]

theorem step_rejected {s : State} {n : Nat} {f : Fetched} {rest : List HostEvent} {x : Reject} (hs : s.seq = .idle)
    (hi : s.input = .issue n f :: rest) (hd : decode f = .bad x) : step s = .refused (.rejected x f) := by
  simp only [step, hs, hi, hd]

theorem step_nothing {s : State} (hs : s.seq = .idle) (hi : s.input = []) : step s = .next s := by
  simp only [step, hs, hi]

/-- Settles O13: the three ways of an idle step without a foreign write, and what is reported otherwise than `exec`
answers. -/
theorem stepRunsTheDecodedInstruction : Obligations.StepRunsTheDecodedInstruction := by
  refine ⟨fun s n f rest i hs hi hd => ⟨fun hne => ?_, fun hrefused => ?_⟩,
    fun s n f rest x hs hi hd => step_rejected hs hi hd, fun s hs hi => step_nothing hs hi⟩
  · rw [step_issue hs hi hd, reportLine_eq hne]
  · rw [step_issue hs hi hd, hrefused]
    rfl

/-- Settles O17: INIT tests the sequencer first, and every other well-formed host operation is in the wrapper of the
session's operations. -/
theorem operationNeedsAnIdleBlockAndASession : Obligations.OperationNeedsAnIdleBlockAndASession := by
  intro i s hk hwf
  by_cases hinit : ∃ c a, i = .init c a
  · obtain ⟨c, a, rfl⟩ := hinit
    exact ⟨fun ms hs => execInit_busy c a hs, fun _ _ hne => absurd rfl (hne c a)⟩
  · obtain hop | ⟨x, -, hill⟩ := meaning_cases (i := i) (by rw [hk]; decide) fun c a e => hinit ⟨c, a, e⟩
    · obtain ⟨k, he, -⟩ := hop s
      rw [he]
      exact ⟨fun ms hs => onSession_busy k hs, fun hs hnone _ => onSession_unconstructed k hs hnone⟩
    · rw [hill hk] at hwf
      cases hwf

/-! ### Pins -/

/-- A masked update seen through the bits `d`. -/
theorem masked_and (old m v d : Byte) : masked old m v &&& d = ((old &&& d) &&& ~~~m) ||| (v &&& m &&& d) := by
  apply BitVec.eq_of_getLsbD_eq
  intro i hi
  simp only [BitVec.getLsbD_and, BitVec.getLsbD_or, BitVec.getLsbD_not, masked_bit, hi, decide_true, Bool.true_and]
  cases m.getLsbD i <;> simp

/-- Settles O21: a port write updates one of the two registers and leaves the other. -/
theorem pinsFollowOutputAndDirection : Obligations.PinsFollowOutputAndDirection := by
  intro s port ddr m v hne
  simp only [drivenPins, perform_pw]
  constructor
  · rw [portWrite_same, portWrite_other m v hne.symm, masked_and]
  · rw [portWrite_same, portWrite_other m v hne]
    rfl

/-! ### INIT's checks -/

/-- Settles O35: the new session's receiver is the drawn one. -/
theorem initConstructsASessionAndStarts : Obligations.InitConstructsASessionAndStarts := by
  intro s c hs hc ht
  exact ⟨Config.rxFree s.sessions.length s.trace.length, execInit_accepted hs hc ht⟩

/-- The conditions of 10_state.md R23. -/
theorem validConfig_iff (c : SessionConfig) :
    validConfig c = true ↔
      c.rsBit ≠ c.enBit ∧ (c.dataPort = c.ctrlPort → (rsMask c ||| enMask c) &&& busMask c = 0) ∧
      (c.dataPort = c.ctrlPort ↔ c.dataDdr = c.ctrlDdr) ∧
      (c.dataPort ≠ c.ctrlPort → [c.dataPort, c.ctrlPort, c.dataDdr, c.ctrlDdr].Nodup) := by
  by_cases hp : c.dataPort = c.ctrlPort <;> simp [validConfig, shared, hp, and_assoc]

/-- The minima of 70_reset_and_hazards.md R236. -/
theorem validTiming_iff (t : Timing) :
    validTiming t = true ↔
      50 ≤ t.tPowerOn ∧ 5 ≤ t.tInit1 ∧ 150 ≤ t.tInit2 ∧ 1 ≤ t.tESetup ∧ 1 ≤ t.tEHigh ∧ 37 ≤ t.tExec ∧
      2 ≤ t.tLong := by
  simp only [validTiming, Bool.and_eq_true, decide_eq_true_eq, and_assoc]
  rfl

/-- On an idle block an INIT whose allocation succeeds is refused exactly when one of the two checks fails. -/
theorem execInit_refused_iff {s : State} (c : SessionConfig) (hs : s.seq = .idle) :
    execInit c true s = .refused .badConfiguration ↔ ¬(validConfig c = true ∧ validTiming s.timing = true) := by
  rw [← Bool.and_eq_true, Bool.not_eq_true]
  cases hv : validConfig c && validTiming s.timing with
  | false => exact iff_of_true (execInit_bad hs hv) rfl
  | true =>
    obtain ⟨hc, ht⟩ := Bool.and_eq_true_iff.1 hv
    rw [execInit_accepted hs hc ht]
    exact iff_of_false nofun nofun

/-- Settles O40: the negations of the conditions that the two checks stand for. -/
theorem initRefusesABadConfiguration : Obligations.InitRefusesABadConfiguration := by
  intro s c hs
  show _ ↔ execInit c true s = _
  rw [execInit_refused_iff c hs, validConfig_iff, validTiming_iff]
  simp only [← not_le]
  tauto

/-! ### Unset caches -/

/-- A toggle of a cache register without a value stops (10_state.md R24). -/
theorem startToggle_unset {s : State} {r : SessionRegs} {reg : CacheReg} (flag : Byte) (set : Bool) (hr : Ready s r)
    (hreg : cacheOf r reg = none) : startToggle s reg flag set = .fault .cacheUnset := by
  rw [startToggle, onSession_ready _ hr.1 hr.2, hreg]

/-- The display, cursor and blink operations are toggles of `DC` (42_commands.md R165-R170). -/
theorem exec_toggleDC (s : State) :
    ∀ i ∈ [Instr.displayOn, .displayOff, .cursorOn, .cursorOff, .blinkOn, .blinkOff],
      ∃ flag set, exec i s = startToggle s .dc flag set := by
  intro i hi
  simp only [List.mem_cons, List.not_mem_nil, or_false] at hi
  obtain rfl | rfl | rfl | rfl | rfl | rfl := hi <;> exact ⟨_, _, rfl⟩

/-- The direction and autoscroll operations are toggles of `EM` (42_commands.md R171-R174). -/
theorem exec_toggleEM (s : State) :
    ∀ i ∈ [Instr.ltr, .rtl, .autoscrollOn, .autoscrollOff], ∃ flag set, exec i s = startToggle s .em flag set := by
  intro i hi
  simp only [List.mem_cons, List.not_mem_nil, or_false] at hi
  obtain rfl | rfl | rfl | rfl := hi <;> exact ⟨_, _, rfl⟩

/-- Settles O48: each of the operations is a toggle, and a toggle reads the register first. -/
theorem toggleOfAnUnsetCacheFaults : Obligations.ToggleOfAnUnsetCacheFaults := by
  intro s r hr
  constructor
  · intro hdc i hi
    obtain ⟨flag, set, e⟩ := exec_toggleDC s i hi
    rw [e, startToggle_unset (reg := .dc) flag set hr hdc]
  · intro hem i hi
    obtain ⟨flag, set, e⟩ := exec_toggleEM s i hi
    rw [e, startToggle_unset (reg := .em) flag set hr hem]

end Sys2Proof.Machine
end

section
/-! SUPPORT. The proofs about the memory (20_memory.md): foreign writes and the latching edge. -/

namespace Sys2Proof.Machine

/-! ### Foreign writes (20_memory.md R60) -/

/-- A mask meets no bit that the listed sessions own exactly when it meets none of any valid one. -/
theorem and_sessionsOwn_eq_zero_iff (h : Handle) (m : Byte) (ss : List Session) :
    m &&& sessionsOwn h ss = 0 ↔ ∀ r, Session.valid r ∈ ss → m &&& ownedMask r.cfg h = 0 := by
  induction ss with
  | nil => simp [sessionsOwn]
  | cons x ss ih =>
    cases x with
    | invalid => simpa [sessionsOwn] using ih
    | valid r =>
      have hzero (x y : Byte) : x ||| y = 0 ↔ x = 0 ∧ y = 0 := BitVec.or_eq_zero_iff
      rw [sessionsOwn, BitVec.and_or_distrib_left, hzero, ih]
      simp

theorem foreignWrite_masked {s : State} (h : Handle) (m v : Byte) (hie : s.ie = false) :
    foreignWrite h m v s = .refused .foreignMasked := if_pos hie

theorem foreignWrite_owned {s : State} {h : Handle} {m : Byte} (v : Byte) (hie : s.ie = true)
    (hm : m &&& sessionsOwn h s.sessions ≠ 0) : foreignWrite h m v s = .refused .foreignOwnedBit := by
  rw [foreignWrite, if_neg (by simp [hie]), if_pos hm]

theorem foreignWrite_free {s : State} {h : Handle} {m : Byte} (v : Byte) (hie : s.ie = true)
    (hm : m &&& sessionsOwn h s.sessions = 0) :
    foreignWrite h m v s = .next (s.withPorts (Memory.write s.ports h (masked (s.port h) m v))) := by
  rw [foreignWrite, if_neg (by simp [hie]), if_neg (not_not.2 hm)]

/-- An idle block with a foreign write in front takes its event and performs it. -/
theorem step_foreign {s : State} {h : Handle} {m v : Byte} {rest : List HostEvent} (hs : s.seq = .idle)
    (hi : s.input = .foreign h m v :: rest) : step s = foreignWrite h m v (s.withInput rest) := by
  simp only [step, hs, hi]

/-- Settles O19: the three answers of a foreign write, with the bits that some session owns read session by session. -/
theorem foreignWriteNeedsEnabledInterrupts : Obligations.ForeignWriteNeedsEnabledInterrupts := by
  intro s h m v rest hs hi
  rw [step_foreign hs hi]
  refine ⟨fun hie => foreignWrite_masked h m v hie, fun hie ⟨r, hr, hbit⟩ => ?_, fun hie hfree => ?_⟩
  · exact foreignWrite_owned v hie fun hzero => hbit ((and_sessionsOwn_eq_zero_iff h m s.sessions).1 hzero r hr)
  · have hzero : m &&& sessionsOwn h s.sessions = 0 := (and_sessionsOwn_eq_zero_iff h m s.sessions).2 hfree
    exact ⟨_, foreignWrite_free (s := s.withInput rest) v hie hzero, State.port_write_same _ _ _,
      fun a ha => State.port_write_other (s := s.withInput rest) ha, rfl⟩

/-! ### The latching edge (20_memory.md R58) -/

theorem fallingEdge_iff (c : SessionConfig) (h : Handle) (old new : Byte) :
    fallingEdge c h old new = true ↔
      h = c.ctrlPort ∧ old.getLsbD c.enBit.toNat = true ∧ new.getLsbD c.enBit.toNat = false := by
  simp [fallingEdge, and_assoc]

/-- A port write is a falling edge when it writes the control register and takes the E line from high to low. -/
theorem fallingEdge_portWrite_iff (c : SessionConfig) (h : Handle) (m v : Byte) (s : State) :
    fallingEdge c h (s.port h) (masked (s.port h) m v) = true ↔
      h = c.ctrlPort ∧ enableLine s c = true ∧ enableLine (portWrite h m v s) c = false := by
  rw [fallingEdge_iff]
  refine and_congr_right fun hc => ?_
  subst hc
  rw [enableLine, enableLine, portWrite_same]

/-- The latch leaves the lines as they are: the transfer is the same before it and after it. -/
theorem transferOf_latchEdge (h : Handle) (old new : Byte) (s : State) (c : SessionConfig) :
    transferOf (latchEdge h old new s) c = transferOf s c := by
  simp only [transferOf, latchEdge_cur, latchEdge_port]

/-- A port write latches, exactly at a falling edge, the lines as they are after it. -/
theorem portWrite_latched {s : State} {r : SessionRegs} (h : Handle) (m v : Byte) (hs : s.live = some r) :
    (portWrite h m v s).latched =
      if h = r.cfg.ctrlPort ∧ enableLine s r.cfg = true ∧ enableLine (portWrite h m v s) r.cfg = false
      then s.latched ++ [transferOf (portWrite h m v s) r.cfg] else s.latched := by
  have hlive : (registerWrite h m v s).live = some r := (registerWrite_live h m v s).trans hs
  have hlatch := latchEdge_latched h (s.port h) (masked (s.port h) m v) hlive
  rw [← transferOf_latchEdge h (s.port h) (masked (s.port h) m v), registerWrite_latched] at hlatch
  exact hlatch.trans (if_congr (fallingEdge_portWrite_iff r.cfg h m v s) rfl rfl)

/-- Settles O22: a port write does not change which session is current, so the transfer is that session's. -/
theorem fallingEdgeLatchesTheLines : Obligations.FallingEdgeLatchesTheLines := by
  intro s r h m v hs
  have hcur : (portWrite h m v s).cur = s.cur := perform_cur (.pw h m v) s
  rw [perform_pw, portWrite_latched h m v hs, transferOf, hcur]
  rfl

end Sys2Proof.Machine
end

section
/-! SUPPORT. What lexing makes of the text that the encoder writes: numbers, operands joined by commas, the parts of a
line (30_encoding.md R87; log 17). -/

namespace Sys2Proof

/-! ### Text without a space at either end -/

/-- A text with no space at either end. -/
def Trimmed (t : Token) : Prop := t.head? ≠ some chSpace ∧ t.getLast? ≠ some chSpace

theorem tokenOk_iff (t : Token) : tokenOk t = true ↔ t ≠ [] ∧ chComma ∉ t ∧ Trimmed t := by
  simp [tokenOk, Trimmed, chComma, chSpace, and_assoc]

theorem trimmed_nil : Trimmed [] := ⟨nofun, nofun⟩

theorem trimmed_of_notMem {t : Token} (h : chSpace ∉ t) : Trimmed t :=
  ⟨fun e => h (List.mem_of_head? e), fun e => h (List.mem_of_getLast? e)⟩

theorem trimLeft_of_head {t : Token} (h : t.head? ≠ some chSpace) : trimLeft t = t := by
  cases t with
  | nil => rfl
  | cons b t => exact List.dropWhile_cons_of_neg (by simpa using h)

theorem trim_of_trimmed {t : Token} (h : Trimmed t) : trim t = t := by
  obtain ⟨hhead, hlast⟩ := h
  rw [trim, trimLeft_of_head hhead, trimLeft_of_head (by rwa [List.head?_reverse]), List.reverse_reverse]

/-! ### The parts of a line -/

/-- The word at the front of a line. -/
def lineName (text : Token) : Token := (trim text).takeWhile (· != chSpace)

/-- What follows that word. -/
def lineRest (text : Token) : Token := trimLeft ((trim text).dropWhile (· != chSpace))

/-- A line is read as this mnemonic and this operand text. -/
def LineIs (text name rest : Token) : Prop := lineName text = name ∧ lineRest text = rest

theorem lineIs_bare {name : Token} (h : chSpace ∉ name) : LineIs name name [] := by
  have hall : ∀ b ∈ name, (b != chSpace) = true := fun b hb => bne_iff_ne.2 fun e => h (e ▸ hb)
  rw [LineIs, lineName, lineRest, trim_of_trimmed (trimmed_of_notMem h), List.takeWhile_eq_self_iff.2 hall,
    List.dropWhile_eq_nil_iff.2 hall]
  exact ⟨rfl, rfl⟩

/-- A mnemonic that ends the line may be followed by a space. -/
theorem trim_append_space {name : Token} (h : chSpace ∉ name) : trim (name ++ [chSpace]) = trim name := by
  cases name with
  | nil => rfl
  | cons b name =>
    have hhead : ((b :: name) ++ [chSpace]).head? ≠ some chSpace := (trimmed_of_notMem h).1
    rw [trim, trim, trimLeft_of_head hhead, trimLeft_of_head (trimmed_of_notMem h).1, List.reverse_concat]
    rfl

theorem lineIs_operands {name rest : Token} (hne : name ≠ []) (hname : chSpace ∉ name) (hrest : Trimmed rest) :
    LineIs (name ++ chSpace :: rest) name rest := by
  cases rest with
  | nil =>
    have hbare := lineIs_bare hname
    rwa [LineIs, lineName, lineRest, ← trim_append_space hname] at hbare
  | cons b rest =>
    have hall : ∀ c ∈ name, (c != chSpace) = true := fun c hc => bne_iff_ne.2 fun e => hname (e ▸ hc)
    have htrim : Trimmed (name ++ chSpace :: b :: rest) := by
      refine ⟨?_, ?_⟩
      · rw [List.head?_append_of_ne_nil _ hne]; exact (trimmed_of_notMem hname).1
      · rw [List.getLast?_append_cons, List.getLast?_cons_cons]; exact hrest.2
    rw [LineIs, lineName, lineRest, trim_of_trimmed htrim, List.takeWhile_append_of_pos hall,
      List.dropWhile_append_of_pos hall]
    refine ⟨List.append_nil name, ?_⟩
    exact trimLeft_of_head hrest.1

/-! ### Numbers -/

theorem digitVal_hexChar {d : Nat} (h : d < 16) : digitVal (hexChar d) = some d :=
  (by decide : ∀ d : Fin 16, digitVal (hexChar d) = some d.val) ⟨d, h⟩

/-- The digits of a number in front of a text are read as that number. -/
theorem digitsVal_hexDigitsAux {fuel n : Nat} (acc : Token) (h : n < fuel) :
    digitsVal 16 0 (hexDigitsAux fuel n acc) = digitsVal 16 n acc := by
  have hread (a d : Nat) (hd : d < 16) (t : Token) :
      digitsVal 16 a (hexChar d :: t) = digitsVal 16 (a * 16 + d) t := by
    simp [digitsVal, digitVal_hexChar hd, hd]
  induction fuel generalizing n acc with
  | zero => omega
  | succ fuel ih =>
    rw [hexDigitsAux]
    split
    · rename_i hn
      rw [hread 0 n hn, Nat.zero_mul, Nat.zero_add]
    · rw [ih _ (by omega), hread _ _ (by omega), Nat.div_add_mod']

theorem hexDigitsAux_ne_nil {fuel : Nat} (n : Nat) {acc : Token} (h : fuel ≠ 0 ∨ acc ≠ []) :
    hexDigitsAux fuel n acc ≠ [] := by
  induction fuel generalizing n acc with
  | zero => simpa [hexDigitsAux] using h
  | succ fuel ih =>
    rw [hexDigitsAux]
    split
    · exact List.cons_ne_nil _ _
    · exact ih _ (.inr (List.cons_ne_nil _ _))

theorem parseNum_hex {t : Token} (h : t ≠ []) : parseNum (0x30 :: 0x78 :: t) = digitsVal 16 0 t := by
  cases t with
  | nil => exact absurd rfl h
  | cons => rfl

@[simp] theorem parseNum_encodeNum (n : Nat) : parseNum (encodeNum n) = some n := by
  rw [encodeNum, parseNum_hex (hexDigitsAux_ne_nil n (.inl n.succ_ne_zero)),
    digitsVal_hexDigitsAux [] n.lt_succ_self, digitsVal]

theorem parseByte_encodeNum (n : Nat) :
    parseByte (encodeNum n) = if n < 256 then .ok (BitVec.ofNat 8 n) else .error .byteRange := by
  rw [parseByte, parseNum_encodeNum]

theorem parseBitIndex_encodeNum (n : Nat) :
    parseBitIndex (encodeNum n) = if n < 8 then .ok (BitVec.ofNat 3 n) else .error .bitIndexRange := by
  rw [parseBitIndex, parseNum_encodeNum]

@[simp] theorem parseByte_encode (b : Byte) : parseByte (encodeNum b.toNat) = .ok b := by
  rw [parseByte_encodeNum, if_pos b.isLt, BitVec.ofNat_toNat, BitVec.setWidth_eq]

theorem parseByte_tooLarge {n : Nat} (h : 256 ≤ n) : parseByte (encodeNum n) = .error .byteRange := by
  rw [parseByte_encodeNum, if_neg (by omega)]

@[simp] theorem parseBitIndex_encode (i : BitVec 3) : parseBitIndex (encodeNum i.toNat) = .ok i := by
  rw [parseBitIndex_encodeNum, if_pos i.isLt, BitVec.ofNat_toNat, BitVec.setWidth_eq]

@[simp] theorem parseHandle_encode (h : Handle) : parseHandle (encodeNum h) = .ok h := by
  rw [parseHandle, parseNum_encodeNum]

@[simp] theorem parseWidth_encode (w : BusWidth) : parseWidth (encodeWidth w) = .ok w := by
  cases w <;> rfl

@[simp] theorem parseToken_ok {t : Token} (h : tokenOk t = true) : parseToken t = .ok t := if_pos h

@[simp] theorem parseBytes_encode (bs : List Byte) : parseBytes (bs.map fun b => encodeNum b.toNat) = .ok bs := by
  induction bs with
  | nil => rfl
  | cons b bs ih => rw [List.map_cons, parseBytes, parseByte_encode, ih]

/-- A byte that ends no operand, list or line. -/
def Ordinary (b : Byte) : Prop := b ≠ chSpace ∧ b ≠ chComma ∧ b ≠ chClose

theorem ordinary_hexChar {d : Nat} (h : d < 16) : Ordinary (hexChar d) :=
  (by unfold Ordinary; decide : ∀ d : Fin 16, Ordinary (hexChar d)) ⟨d, h⟩

theorem ordinary_hexDigitsAux {fuel n : Nat} {acc : Token} (h : ∀ b ∈ acc, Ordinary b) :
    ∀ b ∈ hexDigitsAux fuel n acc, Ordinary b := by
  induction fuel generalizing n acc with
  | zero => exact h
  | succ fuel ih =>
    rw [hexDigitsAux]
    split
    · rename_i hn
      exact List.forall_mem_cons.2 ⟨ordinary_hexChar hn, h⟩
    · exact ih (List.forall_mem_cons.2 ⟨ordinary_hexChar (Nat.mod_lt _ (by decide)), h⟩)

theorem ordinary_encodeNum (n : Nat) : ∀ b ∈ encodeNum n, Ordinary b := by
  have hlead : Ordinary 0x30 ∧ Ordinary 0x78 := by unfold Ordinary; decide
  exact List.forall_mem_cons.2 ⟨hlead.1, List.forall_mem_cons.2 ⟨hlead.2, ordinary_hexDigitsAux nofun⟩⟩

@[simp] theorem tokenOk_encodeNum (n : Nat) : tokenOk (encodeNum n) = true :=
  (tokenOk_iff _).2 ⟨List.cons_ne_nil _ _, fun h => (ordinary_encodeNum n _ h).2.1 rfl,
    trimmed_of_notMem fun h => (ordinary_encodeNum n _ h).1 rfl⟩

@[simp] theorem tokenOk_encodeWidth (w : BusWidth) : tokenOk (encodeWidth w) = true := by
  cases w <;> decide

/-! ### Operands joined by commas -/

theorem joinComma_cons (t : Token) {ts : List Token} (h : ts ≠ []) :
    joinComma (t :: ts) = t ++ chComma :: joinComma ts := by
  cases ts with
  | nil => exact absurd rfl h
  | cons => rfl

theorem mem_joinComma {ts : List Token} {b : Byte} (h : b ∈ joinComma ts) : b = chComma ∨ ∃ t ∈ ts, b ∈ t := by
  induction ts with
  | nil => cases h
  | cons t ts ih =>
    by_cases hts : ts = []
    · subst hts; exact .inr ⟨t, by simp, h⟩
    · rw [joinComma_cons t hts, List.mem_append, List.mem_cons] at h
      obtain h | rfl | h := h
      · exact .inr ⟨t, by simp, h⟩
      · exact .inl rfl
      · exact (ih h).imp_right fun ⟨u, hu, hb⟩ => ⟨u, List.mem_cons_of_mem _ hu, hb⟩

theorem joinComma_ne_nil {ts : List Token} (hts : ts ≠ []) (h : ∀ t ∈ ts, t ≠ []) : joinComma ts ≠ [] := by
  cases ts with
  | nil => exact absurd rfl hts
  | cons t ts =>
    cases ts with
    | nil => exact h t (by simp)
    | cons => simp [joinComma]

/-- Operands with no space at either end, joined, have none either. -/
theorem trimmed_joinComma {ts : List Token} (h : ∀ t ∈ ts, t ≠ [] ∧ Trimmed t) : Trimmed (joinComma ts) := by
  induction ts with
  | nil => exact trimmed_nil
  | cons t ts ih =>
    obtain ⟨⟨hne, ht⟩, hts⟩ := List.forall_mem_cons.1 h
    by_cases hnil : ts = []
    · subst hnil; exact ht
    · have hjoin : joinComma ts ≠ [] := joinComma_ne_nil hnil fun u hu => (hts u hu).1
      obtain ⟨b, rest, hrest⟩ := List.exists_cons_of_ne_nil hjoin
      rw [joinComma_cons t hnil]
      refine ⟨?_, ?_⟩
      · rw [List.head?_append_of_ne_nil _ hne]; exact ht.1
      · rw [List.getLast?_append_cons, hrest, List.getLast?_cons_cons, ← hrest]; exact (ih hts).2

theorem splitComma_of_notMem {t : Token} (h : chComma ∉ t) : splitComma t = [t] := by
  induction t with
  | nil => rfl
  | cons b t ih =>
    obtain ⟨hb, ht⟩ := not_or.1 (mt List.mem_cons.2 h)
    rw [splitComma, if_neg (by simpa using Ne.symm hb), ih ht]

theorem splitComma_append {t : Token} (u : Token) (h : chComma ∉ t) :
    splitComma (t ++ chComma :: u) = t :: splitComma u := by
  induction t with
  | nil => rfl
  | cons b t ih =>
    obtain ⟨hb, ht⟩ := not_or.1 (mt List.mem_cons.2 h)
    rw [List.cons_append, splitComma, if_neg (by simpa using Ne.symm hb), ih ht]

theorem splitComma_joinComma {ts : List Token} (hne : ts ≠ []) (h : ∀ t ∈ ts, chComma ∉ t) :
    splitComma (joinComma ts) = ts := by
  induction ts with
  | nil => exact absurd rfl hne
  | cons t ts ih =>
    obtain ⟨ht, hts⟩ := List.forall_mem_cons.1 h
    by_cases hnil : ts = []
    · subst hnil; exact splitComma_of_notMem ht
    · rw [joinComma_cons t hnil, splitComma_append _ ht, ih hnil hts]

/-- Operands joined by commas are read back. -/
theorem operandsOf_joinComma {ts : List Token} (h : ∀ t ∈ ts, tokenOk t = true) : operandsOf (joinComma ts) = ts := by
  by_cases hnil : ts = []
  · subst hnil; rfl
  · have hts t (ht : t ∈ ts) := (tokenOk_iff t).1 (h t ht)
    rw [operandsOf, if_neg (joinComma_ne_nil hnil fun t ht => (hts t ht).1),
      splitComma_joinComma hnil fun t ht => (hts t ht).2.1,
      List.map_congr_left fun t ht => trim_of_trimmed (hts t ht).2.2, List.map_id']

/-! ### Bracketed byte sequences -/

theorem cutAt_append {z : Byte} {t : Token} (u : Token) (h : z ∉ t) : cutAt z (t ++ z :: u) = some (t, u) := by
  induction t with
  | nil => exact if_pos rfl
  | cons b t ih =>
    obtain ⟨hb, ht⟩ := not_or.1 (mt List.mem_cons.2 h)
    rw [List.cons_append, cutAt, if_neg (Ne.symm hb), ih ht]

/-- The bytes of a sequence as it stands between the brackets. -/
def encodeBytes (s : List Byte) : Token := joinComma (s.map fun b => encodeNum b.toNat)

theorem tokenOk_encodedBytes (s : List Byte) : ∀ t ∈ s.map (fun b => encodeNum b.toNat), tokenOk t = true := by
  simp

theorem chClose_notMem_encodeBytes (s : List Byte) : chClose ∉ encodeBytes s := by
  intro h
  obtain h | ⟨t, ht, hb⟩ := mem_joinComma h
  · exact absurd h (by decide)
  · obtain ⟨b, -, rfl⟩ := List.mem_map.1 ht
    exact (ordinary_encodeNum _ _ hb).2.2 rfl

theorem bracketedBytes_encodeBytes (s : List Byte) :
    bracketedBytes (encodeBytes s) = if s.contains Machine.terminator then .ok s else .error .unterminatedString := by
  have htrim : Trimmed (encodeBytes s) := trimmed_joinComma fun t ht =>
    have ⟨hne, _, htr⟩ := (tokenOk_iff t).1 (tokenOk_encodedBytes s t ht)
    ⟨hne, htr⟩
  rw [bracketedBytes, trim_of_trimmed htrim, encodeBytes, operandsOf_joinComma (tokenOk_encodedBytes s),
    parseBytes_encode]

/-- An encoded string in front of a text is cut off at its bracket. -/
theorem parseString_encodeString (s : List Byte) (u : Token) :
    parseString (encodeString s ++ u) = soleOperand (some (encodeBytes s, u)) bracketedBytes := by
  have htext : encodeString s ++ u = chOpen :: (encodeBytes s ++ chClose :: u) := by
    simp [encodeString, encodeBytes]
  rw [htext, ← cutAt_append u (chClose_notMem_encodeBytes s)]
  rfl

/-- An encoded string alone is read back, if it holds a terminator (30_encoding.md R89). -/
theorem parseString_encode (s : List Byte) :
    parseString (encodeString s) =
      if s.contains Machine.terminator then .ok s else .error .unterminatedString := by
  rw [← List.append_nil (encodeString s), parseString_encodeString, ← bracketedBytes_encodeBytes]
  rfl

theorem encodeString_trimmed (s : List Byte) : encodeString s ≠ [] ∧ Trimmed (encodeString s) := by
  refine ⟨List.cons_ne_nil _ _, by simp [encodeString, chOpen, chSpace], ?_⟩
  rw [encodeString, ← List.cons_append, List.getLast?_concat]
  decide

end Sys2Proof
end

section
/-! SUPPORT. The decoder of host lines, one equation for each mnemonic, and the proofs about encoding (30_encoding.md
R70-R89). -/

namespace Sys2Proof

open Machine

/-! ### Mnemonics -/

theorem space_notMem_nameOf (i : Instr) : chSpace ∉ nameOf i := by
  cases i <;> simp only [nameOf] <;> decide

theorem nameOf_ne_nil {i : Instr} (h : i.kind = .hostOp ∨ i.kind = .internalOp) : nameOf i ≠ [] := by
  intro hnil
  have hword : i.kind = .busWord ∨ i.kind = .rawTransfer := by
    revert hnil
    cases i <;> simp [nameOf, chars, Instr.kind]
  obtain h | h := h <;> simp [h] at hword

/-! ### The decoder, mnemonic by mnemonic -/

/-- The decoder of a line from its two parts on: `decodeLine` by `decodeLine_eq`. -/
def decodeParts (allocOk : Bool) (name rest : Token) : Decoded :=
  match plainOps.find? (fun i => nameOf i == name) with
  | some i => if rest = [] then .ok i else .bad .operandCount
  | none =>
    if name = chars ['I', 'N', 'I', 'T'] then decodeInit allocOk (operandsOf rest)
    else if name = chars ['S', 'E', 'T', 'C', 'U', 'R', 'S', 'O', 'R'] then decodeSetCursor (operandsOf rest)
    else if name = chars ['P', 'R', 'I', 'N', 'T', '_', 'C', 'H', 'A', 'R'] then decodePrintChar (operandsOf rest)
    else if name = chars ['P', 'R', 'I', 'N', 'T', '_', 'S', 'T', 'R'] then
      .ofExcept (parseString rest) fun s => .ok (.printStr s)
    else if name = chars ['P', 'R', 'I', 'N', 'T', '_', 'I', 'N', 'T'] then decodePrintInt (operandsOf rest)
    else if name = chars ['P', 'R', 'I', 'N', 'T', '_', 'D', 'E', 'C'] then decodePrintDec (operandsOf rest)
    else if internalNames.contains name then .bad .internalOperation
    else .bad .unknownMnemonic

theorem decodeLine_eq {text name rest : Token} (a : Bool) (h : LineIs text name rest) :
    decodeLine a text = decodeParts a name rest := by
  obtain ⟨rfl, rfl⟩ := h
  rfl

section

variable (a : Bool) (rest : Token)

/-- The decoder's table finds each operation without operands by its mnemonic. -/
theorem find_plainOps : ∀ i ∈ plainOps, plainOps.find? (fun j => nameOf j == nameOf i) = some i := by decide

theorem decodeParts_plain {i : Instr} (hi : i ∈ plainOps) :
    decodeParts a (nameOf i) rest = if rest = [] then .ok i else .bad .operandCount := by
  rw [decodeParts, find_plainOps i hi]

theorem decodeParts_init (c : SessionConfig) (b : Bool) :
    decodeParts a (nameOf (.init c b)) rest = decodeInit a (operandsOf rest) := rfl

theorem decodeParts_setCursor (row col : Byte) :
    decodeParts a (nameOf (.setCursor row col)) rest = decodeSetCursor (operandsOf rest) := rfl

theorem decodeParts_printChar (c : Byte) :
    decodeParts a (nameOf (.printChar c)) rest = decodePrintChar (operandsOf rest) := rfl

theorem decodeParts_printStr (s : List Byte) :
    decodeParts a (nameOf (.printStr s)) rest = .ofExcept (parseString rest) fun s => .ok (.printStr s) := rfl

theorem decodeParts_printInt (v : Token) :
    decodeParts a (nameOf (.printInt v)) rest = decodePrintInt (operandsOf rest) := rfl

theorem decodeParts_printDec (v : Token) :
    decodeParts a (nameOf (.printDec v)) rest = decodePrintDec (operandsOf rest) := rfl

theorem decodeParts_internal {i : Instr} (hi : i.kind = .internalOp) :
    decodeParts a (nameOf i) rest = .bad .internalOperation := by
  cases i with
  | pulse | setRs | write8 | write4 | write | poke => rfl
  | _ => cases hi

theorem decodeParts_unknown {name : Token} (h : ∀ i, nameOf i ≠ name) :
    decodeParts a name rest = .bad .unknownMnemonic := by
  have hne (i : Instr) : name ≠ nameOf i := (h i).symm
  have hfind : plainOps.find? (fun i => nameOf i == name) = none :=
    List.find?_eq_none.2 fun i _ => by simpa using h i
  have hinternal : internalNames.contains name = false := by simp [internalNames, hne]
  rw [decodeParts, hfind, hinternal]
  exact (if_neg (hne (.init (exampleSession .eightBit 0).cfg a))).trans <| (if_neg (hne (.setCursor 0 0))).trans <|
    (if_neg (hne (.printChar 0))).trans <| (if_neg (hne (.printStr []))).trans <|
    (if_neg (hne (.printInt []))).trans (if_neg (hne (.printDec [])))

end

/-! ### The decoder on lines that the encoder writes -/

section

variable (a : Bool) {i : Instr} {ts : List Token}

theorem decode_bare {name : Token} (h : chSpace ∉ name) : decode (.line a name) = decodeParts a name [] :=
  decodeLine_eq a (lineIs_bare h)

theorem decode_lineOf (hi : i.kind = .hostOp ∨ i.kind = .internalOp) (hts : ∀ t ∈ ts, t ≠ [] ∧ Trimmed t) :
    decode (.line a (lineOf i ts)) = decodeParts a (nameOf i) (joinComma ts) :=
  decodeLine_eq a (lineIs_operands (nameOf_ne_nil hi) (space_notMem_nameOf i) (trimmed_joinComma hts))

theorem decode_lineOf_tokens (hi : i.kind = .hostOp ∨ i.kind = .internalOp) (hts : ∀ t ∈ ts, tokenOk t = true) :
    decode (.line a (lineOf i ts)) = decodeParts a (nameOf i) (joinComma ts) :=
  decode_lineOf a hi fun t ht =>
    have ⟨hne, _, htrim⟩ := (tokenOk_iff t).1 (hts t ht)
    ⟨hne, htrim⟩

theorem decode_setCursor (row col : Byte) (hts : ∀ t ∈ ts, tokenOk t = true) :
    decode (.line a (lineOf (.setCursor row col) ts)) = decodeSetCursor ts := by
  rw [decode_lineOf_tokens a (.inl rfl) hts, decodeParts_setCursor, operandsOf_joinComma hts]

theorem decode_printChar (c : Byte) (hts : ∀ t ∈ ts, tokenOk t = true) :
    decode (.line a (lineOf (.printChar c) ts)) = decodePrintChar ts := by
  rw [decode_lineOf_tokens a (.inl rfl) hts, decodeParts_printChar, operandsOf_joinComma hts]

theorem decode_printInt (v : Token) (hts : ∀ t ∈ ts, tokenOk t = true) :
    decode (.line a (lineOf (.printInt v) ts)) = decodePrintInt ts := by
  rw [decode_lineOf_tokens a (.inl rfl) hts, decodeParts_printInt, operandsOf_joinComma hts]

theorem decode_printDec (v : Token) (hts : ∀ t ∈ ts, tokenOk t = true) :
    decode (.line a (lineOf (.printDec v) ts)) = decodePrintDec ts := by
  rw [decode_lineOf_tokens a (.inl rfl) hts, decodeParts_printDec, operandsOf_joinComma hts]

theorem decode_init (c : SessionConfig) (b : Bool) (hts : ∀ t ∈ ts, tokenOk t = true) :
    decode (.line a (lineOf (.init c b) ts)) = decodeInit a ts := by
  rw [decode_lineOf_tokens a (.inl rfl) hts, decodeParts_init, operandsOf_joinComma hts]

theorem decode_printStr (s : List Byte) (ss : List (List Byte)) :
    decode (.line a (lineOf (.printStr s) (ss.map encodeString))) =
      .ofExcept (parseString (joinComma (ss.map encodeString))) fun s => .ok (.printStr s) := by
  have hss : ∀ t ∈ ss.map encodeString, t ≠ [] ∧ Trimmed t := by simpa using fun s _ => encodeString_trimmed s
  rw [decode_lineOf a (.inl rfl) hss, decodeParts_printStr]

end

@[simp] theorem Decoded.ofExcept_ok {α : Type} (x : α) (k : α → Decoded) : Decoded.ofExcept (.ok x) k = k x := rfl

@[simp] theorem Decoded.ofExcept_error {α : Type} (r : Reject) (k : α → Decoded) :
    Decoded.ofExcept (.error r) k = .bad r := rfl

/-! ### Round trips -/

/-- The operands of INIT as the encoder writes them, but for the two bit indices and the width. -/
def initOperands (c : SessionConfig) (rs en w : Token) : List Token :=
  [encodeNum c.dataPort, encodeNum c.dataDdr, encodeNum c.ctrlPort, encodeNum c.ctrlDdr, rs, en, w, c.fmt.screenSize,
   c.fmt.rowWidth, c.fmt.numPrecision, c.fmt.numBase]

theorem wellFormed_init_iff (c : SessionConfig) (a : Bool) :
    WellFormed (.init c a) = true ↔ tokenOk c.fmt.screenSize = true ∧ tokenOk c.fmt.rowWidth = true ∧
      tokenOk c.fmt.numPrecision = true ∧ tokenOk c.fmt.numBase = true := by
  simp [WellFormed, and_assoc]

theorem tokenOk_initOperands {c : SessionConfig} {a : Bool} {rs en w : Token} (hc : WellFormed (.init c a) = true)
    (hrs : tokenOk rs = true) (hen : tokenOk en = true) (hw : tokenOk w = true) :
    ∀ t ∈ initOperands c rs en w, tokenOk t = true := by
  obtain ⟨hss, hrw, hpr, hnb⟩ := (wellFormed_init_iff c a).1 hc
  simp [initOperands, *]

/-- INIT's handles and formatting registers are read back; the bit indices and the width are read from left to
right. -/
theorem decodeInit_operands {c : SessionConfig} {a : Bool} (rs en w : Token) (hc : WellFormed (.init c a) = true) :
    decodeInit a (initOperands c rs en w) =
      .ofExcept (parseBitIndex rs) fun rsBit => .ofExcept (parseBitIndex en) fun enBit =>
      .ofExcept (parseWidth w) fun busWidth =>
      .ok (.init { c with rsBit := rsBit, enBit := enBit, busWidth := busWidth } a) := by
  obtain ⟨hss, hrw, hpr, hnb⟩ := (wellFormed_init_iff c a).1 hc
  simp [decodeInit, initOperands, *]

theorem wordRoundTrip (i : Instr) : Laws.WordRoundTrip.Statement i := by
  cases i with
  | clearWord => exact Laws.WordRoundTrip.clearWord
  | returnHome x => exact Laws.WordRoundTrip.returnHome x
  | entryModeSet id s => exact Laws.WordRoundTrip.entryModeSet id s
  | displayControl d c b => exact Laws.WordRoundTrip.displayControl d c b
  | cursorDisplayShift sc rl x => exact Laws.WordRoundTrip.cursorDisplayShift sc rl x
  | functionSet dl n f x => exact Laws.WordRoundTrip.functionSet dl n f x
  | setCgramAddress a => exact Laws.WordRoundTrip.setCgramAddress a
  | setDdramAddress a => exact Laws.WordRoundTrip.setDdramAddress a
  | dataWrite d => exact Laws.WordRoundTrip.dataWrite d
  | notEmittedZero => exact Laws.WordRoundTrip.notEmittedZero
  | syncPoke8 => exact Laws.WordRoundTrip.syncPoke8
  | syncPoke4 => exact Laws.WordRoundTrip.syncPoke4
  | to4Poke => exact Laws.WordRoundTrip.to4Poke
  | _ => exact Laws.WordRoundTrip.no_word (by simp [Instr.kind])

theorem encode_plain : ∀ i ∈ plainOps, encode i = .line true (nameOf i) := by decide

theorem decode_encode_plain {i : Instr} (hi : i ∈ plainOps) : decode (encode i) = .ok i := by
  rw [encode_plain i hi, decode_bare true (space_notMem_nameOf i), decodeParts_plain true [] hi, if_pos rfl]

theorem decode_encode_init {c : SessionConfig} {a : Bool} (hc : WellFormed (.init c a) = true) :
    decode (encode (.init c a)) = .ok (.init c a) := by
  have htokens := tokenOk_initOperands hc (tokenOk_encodeNum c.rsBit.toNat) (tokenOk_encodeNum c.enBit.toNat)
    (tokenOk_encodeWidth c.busWidth)
  refine (decode_init a c a htokens).trans ?_
  rw [decodeInit_operands _ _ _ hc, parseBitIndex_encode, parseBitIndex_encode, parseWidth_encode]
  rfl

theorem decode_encode_setCursor (row col : Byte) :
    decode (encode (.setCursor row col)) = .ok (.setCursor row col) := by
  refine (decode_setCursor true row col (by simp)).trans ?_
  simp [decodeSetCursor]

theorem decode_encode_printChar (c : Byte) : decode (encode (.printChar c)) = .ok (.printChar c) := by
  refine (decode_printChar true c (by simp)).trans ?_
  simp [decodePrintChar]

theorem decode_encode_printStr {s : List Byte} (hs : s.contains terminator = true) :
    decode (encode (.printStr s)) = .ok (.printStr s) := by
  refine (decode_printStr true s [s]).trans ?_
  rw [List.map_singleton, joinComma, parseString_encode, if_pos hs, Decoded.ofExcept_ok]

theorem decode_encode_printInt {v : Token} (hv : tokenOk v = true) :
    decode (encode (.printInt v)) = .ok (.printInt v) := by
  refine (decode_printInt true v (by simpa using hv)).trans ?_
  simp [decodePrintInt, hv]

theorem decode_encode_printDec {v : Token} (hv : tokenOk v = true) :
    decode (encode (.printDec v)) = .ok (.printDec v) := by
  refine (decode_printDec true v (by simpa using hv)).trans ?_
  simp [decodePrintDec, hv]

/-- Settles O1: the wire words by the round-trip laws, each host operation by reading back its mnemonic and its
operands. -/
theorem decodeOfEncodeIsTheInstruction : Obligations.DecodeOfEncodeIsTheInstruction := by
  intro i hwf hk
  cases i with
  | init c a => exact decode_encode_init hwf
  | clear | home | displayOn | displayOff | cursorOn | cursorOff | blinkOn | blinkOff | ltr | rtl | autoscrollOn
  | autoscrollOff | scrollLeft | scrollRight => exact decode_encode_plain (by decide)
  | setCursor row col => exact decode_encode_setCursor row col
  | printChar c => exact decode_encode_printChar c
  | printStr s => exact decode_encode_printStr hwf
  | printInt v => exact decode_encode_printInt hwf
  | printDec v => exact decode_encode_printDec hwf
  | pulse | setRs | write8 | write4 | write | poke => exact absurd rfl hk
  | clearWord | returnHome | entryModeSet | displayControl | cursorDisplayShift | functionSet | setCgramAddress
  | setDdramAddress | dataWrite | notEmittedZero => exact wordRoundTrip _ (.inl rfl) hwf
  | syncPoke8 | syncPoke4 | to4Poke => exact wordRoundTrip _ (.inr rfl) hwf

end Sys2Proof
end

section
/-! SUPPORT. What the decoder accepts is well-formed, what it refuses (30_encoding.md R73, R79, R87, R89). -/

namespace Sys2Proof

open Machine

/-! ### What decoding accepts -/

/-- Whatever is decoded is well-formed. -/
def Decoded.OnlyWellFormed (d : Decoded) : Prop := ∀ i, d = .ok i → WellFormed i = true

theorem Decoded.onlyWellFormed_bad (r : Reject) : Decoded.OnlyWellFormed (.bad r) := fun _ h => by cases h

theorem Decoded.onlyWellFormed_ok {i : Instr} (hi : WellFormed i = true) : Decoded.OnlyWellFormed (.ok i) :=
  fun _ h => by cases h; exact hi

theorem Decoded.onlyWellFormed_ofExcept {α : Type} {e : Except Reject α} {k : α → Decoded}
    (hk : ∀ x, e = .ok x → (k x).OnlyWellFormed) : (Decoded.ofExcept e k).OnlyWellFormed := by
  cases e with
  | error r => exact onlyWellFormed_bad r
  | ok x => exact hk x rfl

open Decoded

theorem parseToken_eq_ok {t v : Token} (h : parseToken t = .ok v) : tokenOk v = true := by
  unfold parseToken at h
  split at h
  · rename_i ht; cases h; exact ht
  · cases h

theorem quotedBytes_eq_ok {t : Token} {s : List Byte} (h : quotedBytes t = .ok s) : s.contains terminator = true := by
  unfold quotedBytes at h
  split at h
  · cases h; simp
  · cases h

theorem bracketedBytes_eq_ok {t : Token} {s : List Byte} (h : bracketedBytes t = .ok s) :
    s.contains terminator = true := by
  unfold bracketedBytes at h
  split at h
  · cases h
  · split at h
    · rename_i hs; cases h; exact hs
    · cases h

theorem soleOperand_eq_ok {cut : Option (Token × Token)} {value : Token → Except Reject (List Byte)} {s : List Byte}
    (h : soleOperand cut value = .ok s) : ∃ t, value t = .ok s := by
  unfold soleOperand at h
  split at h
  · cases h
  · split at h
    · exact ⟨_, h⟩
    · cases h

theorem parseString_eq_ok {t : Token} {s : List Byte} (h : parseString t = .ok s) : s.contains terminator = true := by
  unfold parseString at h
  split at h
  · cases h
  · split_ifs at h
    · obtain ⟨_, hs⟩ := soleOperand_eq_ok h; exact quotedBytes_eq_ok hs
    · obtain ⟨_, hs⟩ := soleOperand_eq_ok h; exact bracketedBytes_eq_ok hs

theorem decodeInit_onlyWellFormed (a : Bool) (ts : List Token) : (decodeInit a ts).OnlyWellFormed := by
  unfold decodeInit
  split
  · iterate 7 refine onlyWellFormed_ofExcept fun _ _ => ?_
    refine onlyWellFormed_ofExcept fun _ hss => onlyWellFormed_ofExcept fun _ hrw =>
      onlyWellFormed_ofExcept fun _ hpr => onlyWellFormed_ofExcept fun _ hnb => onlyWellFormed_ok ?_
    exact (wellFormed_init_iff _ a).2
      ⟨parseToken_eq_ok hss, parseToken_eq_ok hrw, parseToken_eq_ok hpr, parseToken_eq_ok hnb⟩
  · exact onlyWellFormed_bad _

theorem decodeSetCursor_onlyWellFormed (ts : List Token) : (decodeSetCursor ts).OnlyWellFormed := by
  unfold decodeSetCursor
  split
  · exact onlyWellFormed_ofExcept fun _ _ => onlyWellFormed_ofExcept fun _ _ => onlyWellFormed_ok rfl
  · exact onlyWellFormed_bad _

theorem decodePrintChar_onlyWellFormed (ts : List Token) : (decodePrintChar ts).OnlyWellFormed := by
  unfold decodePrintChar
  split
  · exact onlyWellFormed_ofExcept fun _ _ => onlyWellFormed_ok rfl
  · exact onlyWellFormed_bad _

theorem decodePrintInt_onlyWellFormed (ts : List Token) : (decodePrintInt ts).OnlyWellFormed := by
  unfold decodePrintInt
  split
  · exact onlyWellFormed_ofExcept fun _ hv => onlyWellFormed_ok (parseToken_eq_ok hv)
  · exact onlyWellFormed_bad _

theorem decodePrintDec_onlyWellFormed (ts : List Token) : (decodePrintDec ts).OnlyWellFormed := by
  unfold decodePrintDec
  split
  · exact onlyWellFormed_ofExcept fun _ hv => onlyWellFormed_ok (parseToken_eq_ok hv)
  · exact onlyWellFormed_bad _

theorem plainOps_wellFormed : ∀ i ∈ plainOps, WellFormed i = true := by decide

theorem decodeParts_onlyWellFormed (a : Bool) (name rest : Token) : (decodeParts a name rest).OnlyWellFormed := by
  unfold decodeParts
  split
  · rename_i i hfind
    split
    · exact onlyWellFormed_ok (plainOps_wellFormed i (List.mem_of_find?_eq_some hfind))
    · exact onlyWellFormed_bad _
  · split_ifs
    · exact decodeInit_onlyWellFormed _ _
    · exact decodeSetCursor_onlyWellFormed _
    · exact decodePrintChar_onlyWellFormed _
    · exact onlyWellFormed_ofExcept fun _ hs => onlyWellFormed_ok (parseString_eq_ok hs)
    · exact decodePrintInt_onlyWellFormed _
    · exact decodePrintDec_onlyWellFormed _
    · exact onlyWellFormed_bad _
    · exact onlyWellFormed_bad _

/-- A line the decoder accepts is a well-formed instruction. -/
theorem decodeLine_onlyWellFormed (a : Bool) (text : Token) : (decodeLine a text).OnlyWellFormed := by
  rw [decodeLine_eq a ⟨rfl, rfl⟩]
  exact decodeParts_onlyWellFormed a _ _

/-- The decoder of bus words loses no bit of the byte. -/
theorem wordByte_decodeBusWord : ∀ b : Byte, wordByte (decodeBusWord false b) = b := by decide

/-- The one bus word that is not well-formed is the function set 0x30 (log 13). -/
theorem busWord_wellFormed {i : Instr} (hk : i.kind = .busWord) (hi : wordByte i ≠ syncPattern) :
    WellFormed i = true := by
  cases i with
  | functionSet dl n f x => revert hi; revert dl n f x; decide
  | clearWord | returnHome | entryModeSet | displayControl | cursorDisplayShift | setCgramAddress | setDdramAddress
  | dataWrite | notEmittedZero => rfl
  | _ => cases hk

theorem decodeTransfer9_wellFormed (rs : Bool) (b : Byte) : WellFormed (decodeTransfer9 rs b) = true := by
  cases rs with
  | true => rfl
  | false =>
    by_cases hb : b = syncPattern
    · subst hb; rfl
    · have hword : decodeTransfer9 false b = decodeBusWord false b := if_neg (by simpa using hb)
      rw [hword]
      exact busWord_wellFormed (decodeBusWord_kind false b) (by rwa [wordByte_decodeBusWord])

theorem decodeWord_onlyWellFormed (bytes : List Byte) : (decodeWord bytes).OnlyWellFormed := by
  unfold decodeWord
  split
  · split_ifs
    · exact onlyWellFormed_ok rfl
    · exact onlyWellFormed_ok rfl
    · exact onlyWellFormed_bad _
  · split_ifs
    · exact onlyWellFormed_ok (decodeTransfer9_wellFormed false _)
    · exact onlyWellFormed_ok (decodeTransfer9_wellFormed true _)
    · exact onlyWellFormed_bad _
  · exact onlyWellFormed_bad _

/-- Settles O2: a line or a word, and that nothing decodes to an internal operation is `decode_kind`. -/
theorem decodedInstructionIsWellFormed : Obligations.DecodedInstructionIsWellFormed := by
  intro f i h
  refine ⟨?_, decode_kind h⟩
  cases f with
  | line a text => exact decodeLine_onlyWellFormed a text i h
  | word bytes => exact decodeWord_onlyWellFormed bytes i h

/-! ### What decoding refuses -/

/-- The text of an internal operation is its mnemonic, alone or with well-formed operands. -/
theorem encode_internal {i : Instr} (hi : i.kind = .internalOp) :
    encode i = .line true (nameOf i) ∨
      ∃ ts, encode i = .line true (lineOf i ts) ∧ ∀ t ∈ ts, tokenOk t = true := by
  cases i with
  | pulse => exact .inl rfl
  | setRs | write8 | write4 | write | poke => exact .inr ⟨_, rfl, by simp [encodeBit]⟩
  | _ => cases hi

/-- Settles O5: whatever its operands, such a line is read as one of the internal mnemonics. -/
theorem hostMayNotIssueInternalOperations : Obligations.HostMayNotIssueInternalOperations := by
  intro i hi
  obtain h | ⟨ts, h, hts⟩ := encode_internal hi
  · rw [h, decode_bare true (space_notMem_nameOf i), decodeParts_internal _ _ hi]
  · rw [h, decode_lineOf_tokens true (.inr hi) hts, decodeParts_internal _ _ hi]

theorem decodeInit_outOfRange {c : SessionConfig} {a : Bool} {rs en : Nat} {w : Token}
    (hc : WellFormed (.init c a) = true)
    (h : 8 ≤ rs ∨ 8 ≤ en ∨ (w ≠ encodeWidth .fourBit ∧ w ≠ encodeWidth .eightBit)) :
    decodeInit a (initOperands c (encodeNum rs) (encodeNum en) w) =
      .bad (if 8 ≤ rs ∨ 8 ≤ en then .bitIndexRange else .unknownWidth) := by
  rw [decodeInit_operands _ _ _ hc, parseBitIndex_encodeNum, parseBitIndex_encodeNum]
  by_cases hrs : 8 ≤ rs
  · rw [if_neg (by omega), if_pos (Or.inl hrs), Decoded.ofExcept_error]
  · rw [if_pos (by omega), Decoded.ofExcept_ok]
    by_cases hen : 8 ≤ en
    · rw [if_neg (by omega), if_pos (Or.inr hen), Decoded.ofExcept_error]
    · obtain ⟨hfour, height⟩ := (h.resolve_left hrs).resolve_left hen
      have hwidth : parseWidth w = .error .unknownWidth := (if_neg hfour).trans (if_neg height)
      rw [if_pos (by omega), if_neg (not_or.2 ⟨hrs, hen⟩), hwidth, Decoded.ofExcept_ok, Decoded.ofExcept_error]

/-- Settles O6: every operand is read as its number, and the first from the left that is out of range ends the
decoding. -/
theorem outOfRangeHostTextIsRefused : Obligations.OutOfRangeHostTextIsRefused := by
  refine ⟨fun a n m hn => ?_, fun a row n hn => ?_, fun a n hn => ?_, fun a s hs => ?_, fun a c rs en w hc hw h => ?_⟩
  · rw [decode_setCursor a 0 0 (by simp), decodeSetCursor, parseByte_tooLarge hn, Decoded.ofExcept_error]
  · rw [decode_setCursor a 0 0 (by simp), decodeSetCursor, parseByte_encode, parseByte_tooLarge hn,
      Decoded.ofExcept_ok, Decoded.ofExcept_error]
  · rw [decode_printChar a 0 (by simp), decodePrintChar, parseByte_tooLarge hn, Decoded.ofExcept_error]
  · have hterm : ¬ s.contains terminator = true := mt List.contains_iff_mem.1 hs
    refine (decode_printStr a s [s]).trans ?_
    rw [List.map_singleton, joinComma, parseString_encode, if_neg hterm, Decoded.ofExcept_error]
  · have htokens := tokenOk_initOperands hc (tokenOk_encodeNum rs) (tokenOk_encodeNum en) hw
    exact (decode_init a c a htokens).trans (decodeInit_outOfRange hc h)

theorem decodeSetCursor_count {ts : List Token} (h : ts.length ≠ 2) : decodeSetCursor ts = .bad .operandCount := by
  unfold decodeSetCursor
  split
  · exact absurd rfl h
  · rfl

theorem decodePrintChar_count {ts : List Token} (h : ts.length ≠ 1) : decodePrintChar ts = .bad .operandCount := by
  unfold decodePrintChar
  split
  · exact absurd rfl h
  · rfl

theorem decodePrintInt_count {ts : List Token} (h : ts.length ≠ 1) : decodePrintInt ts = .bad .operandCount := by
  unfold decodePrintInt
  split
  · exact absurd rfl h
  · rfl

theorem decodePrintDec_count {ts : List Token} (h : ts.length ≠ 1) : decodePrintDec ts = .bad .operandCount := by
  unfold decodePrintDec
  split
  · exact absurd rfl h
  · rfl

theorem decodeInit_count {ts : List Token} (a : Bool) (h : ts.length ≠ 11) :
    decodeInit a ts = .bad .operandCount := by
  unfold decodeInit
  split
  · exact absurd rfl h
  · rfl

/-- No bracketed sequence at all, or a comma after the first one. -/
theorem parseString_count {ss : List (List Byte)} (h : ss.length ≠ 1) :
    parseString (joinComma (ss.map encodeString)) = .error .operandCount := by
  match ss with
  | [] => rfl
  | [s] => exact absurd rfl h
  | s :: s' :: ss =>
    rw [List.map_cons, List.map_cons, joinComma_cons _ (List.cons_ne_nil _ _), parseString_encodeString]
    rfl

/-- Settles O57: the mnemonic is looked up first, and each operation's decoder counts its operands before it reads
them. -/
theorem unknownMnemonicAndWrongCountAreRefused : Obligations.UnknownMnemonicAndWrongCountAreRefused := by
  refine ⟨fun a name hne hspace hunknown => ?_, fun a i hi t ht => ?_, fun a ts hts => ⟨fun h => ?_, fun h => ?_,
    fun h => ?_, fun h => ?_, fun h c => ?_⟩, fun a ss h => ?_⟩
  · rw [decode_bare a hspace, decodeParts_unknown _ _ hunknown]
  · have hts : ∀ u ∈ [t], tokenOk u = true := by simpa using ht
    have hrest : joinComma [t] ≠ [] := ((tokenOk_iff t).1 ht).1
    rw [decode_lineOf_tokens a (.inl (plainOps_hostOp i hi)) hts, decodeParts_plain _ _ hi, if_neg hrest]
  · rw [decode_setCursor a 0 0 hts, decodeSetCursor_count h]
  · rw [decode_printChar a 0 hts, decodePrintChar_count h]
  · rw [decode_printInt a [] hts, decodePrintInt_count h]
  · rw [decode_printDec a [] hts, decodePrintDec_count h]
  · rw [decode_init a c a hts, decodeInit_count a h]
  · rw [decode_printStr, parseString_count h, Decoded.ofExcept_error]

/-! ### The leading 1 of a bus word (30_encoding.md R73) -/

/-- The bits of a byte from its most significant 1 bit on. -/
def Leads (b : Byte) (k : Nat) : Prop := b.getLsbD k = true ∧ ∀ j, k < j → b.getLsbD j = false

theorem leads_of_range {b : Byte} (k : Nat) (hlow : 2 ^ k ≤ b.toNat) (hhigh : b.toNat < 2 ^ (k + 1)) : Leads b k := by
  refine ⟨Nat.testBit_of_two_pow_le_and_two_pow_add_one_gt hlow hhigh, fun j hj => ?_⟩
  exact Nat.testBit_lt_two_pow (hhigh.trans_le (Nat.pow_le_pow_right (by decide) hj))

/-- Settles O3: the byte's range says which bit leads, and the decoder tests the bits from the top. -/
theorem leadingOneSelectsTheBusWord : Obligations.LeadingOneSelectsTheBusWord := by
  refine ⟨fun b => rfl, fun b hlow => ?_, fun b hlow hhigh => ?_, fun b hlow hhigh => ?_, fun b hlow hhigh => ?_,
    fun b hlow hhigh => ?_, fun b hlow hhigh => ?_, fun b hlow hhigh => ?_, by decide, by decide⟩
  · obtain ⟨hk, -⟩ := leads_of_range 7 hlow b.isLt
    simp only [decodeBusWord, hk, Bool.false_eq_true, if_false, if_true]
    exact ⟨_, rfl⟩
  · obtain ⟨hk, hj⟩ := leads_of_range 6 hlow hhigh
    simp only [decodeBusWord, hk, hj, Nat.reduceLT, Bool.false_eq_true, if_false, if_true]
    exact ⟨_, rfl⟩
  · obtain ⟨hk, hj⟩ := leads_of_range 5 hlow hhigh
    simp only [decodeBusWord, hk, hj, Nat.reduceLT, Bool.false_eq_true, if_false, if_true]
    exact ⟨_, _, _, _, rfl⟩
  · obtain ⟨hk, hj⟩ := leads_of_range 4 hlow hhigh
    simp only [decodeBusWord, hk, hj, Nat.reduceLT, Bool.false_eq_true, if_false, if_true]
    exact ⟨_, _, _, rfl⟩
  · obtain ⟨hk, hj⟩ := leads_of_range 3 hlow hhigh
    simp only [decodeBusWord, hk, hj, Nat.reduceLT, Bool.false_eq_true, if_false, if_true]
    exact ⟨_, _, _, rfl⟩
  · obtain ⟨hk, hj⟩ := leads_of_range 2 hlow hhigh
    simp only [decodeBusWord, hk, hj, Nat.reduceLT, Bool.false_eq_true, if_false, if_true]
    exact ⟨_, _, rfl⟩
  · obtain ⟨hk, hj⟩ := leads_of_range 1 hlow hhigh
    simp only [decodeBusWord, hk, hj, Nat.reduceLT, Bool.false_eq_true, if_false, if_true]
    exact ⟨_, rfl⟩

/-- Settles O4, by running the decoder on the ten literals. -/
theorem writtenOutWordsDecode : Obligations.WrittenOutWordsDecode := by
  unfold Obligations.WrittenOutWordsDecode
  decide

end Sys2Proof
end

section
/-! SUPPORT. The lines of a session's bus under lists of micro-steps: what each of them latches and how it leaves the
lines (30_encoding.md R71, R72, R83; 40_bus_and_pulse.md R100-R109). -/

namespace Sys2Proof.Machine

/-! ### The lines of a session -/

/-- The current session is valid and has this configuration. -/
def State.HasConfig (s : State) (c : SessionConfig) : Prop := ∃ r, s.live = some r ∧ r.cfg = c

theorem performAll_hasConfig {s : State} {c : SessionConfig} (ms : List MicroStep) (hs : s.HasConfig c) :
    (performAll ms s).HasConfig c := by
  obtain ⟨r, hl, rfl⟩ := hs
  exact performAll_live ms hl

/-- The levels of E and RS, and the owned bits of the data port (20_memory.md R58). -/
structure Lines where
  enable : Bool
  rs : Bool
  data : Byte

/-- The lines of a session as the ports hold them. -/
def linesOf (s : State) (c : SessionConfig) : Lines :=
  ⟨enableLine s c, rsLine s c, s.port c.dataPort &&& busMask c⟩

/-- The transfer of these lines. -/
def Lines.transfer (l : Lines) (n : Nat) (c : SessionConfig) : Transfer := ⟨n, l.rs, dataLines c l.data⟩

/-- The bits outside `BUSM` are on no data line. -/
theorem dataLines_busMask (c : SessionConfig) (d : Byte) : dataLines c (d &&& busMask c) = dataLines c d := by
  unfold dataLines busMask
  cases c.busWidth with
  | eightBit => exact congrArg DataLines.byte (BitVec.and_allOnes (x := d))
  | fourBit =>
    have hnibble : ∀ d : Byte, (d &&& 0xF0).extractLsb' 4 4 = d.extractLsb' 4 4 := by decide
    exact congrArg DataLines.nibble (hnibble d)

theorem transferOf_eq (s : State) (c : SessionConfig) : transferOf s c = (linesOf s c).transfer s.cur c := by
  rw [Lines.transfer, linesOf, dataLines_busMask]
  rfl

/-- The byte that a WRITE leaves on the data lines. -/
def lastLoad (w : BusWidth) (b : Byte) : Byte :=
  match w with
  | .eightBit => b
  | .fourBit => lowNibble b

/-! ### A port write and the lines -/

theorem portWrite_bit (h a : Handle) (m v : Byte) (s : State) (i : Nat) :
    ((portWrite h m v s).port a).getLsbD i =
      if a = h ∧ m.getLsbD i = true then v.getLsbD i else (s.port a).getLsbD i := by
  by_cases ha : a = h
  · subst ha
    simp only [portWrite_same, masked_bit, true_and]
  · rw [portWrite_other m v ha, if_neg fun hc => ha hc.1]

theorem portWrite_bit_kept {h a : Handle} {m : Byte} {i : Nat} (v : Byte) (s : State)
    (hm : a = h → m.getLsbD i = false) : ((portWrite h m v s).port a).getLsbD i = (s.port a).getLsbD i := by
  rw [portWrite_bit, if_neg]
  rintro ⟨ha, hbit⟩
  rw [hm ha] at hbit
  cases hbit

theorem portWrite_bits_kept {h a : Handle} {m k : Byte} (v : Byte) (s : State) (hm : a = h → m &&& k = 0) :
    (portWrite h m v s).port a &&& k = s.port a &&& k := by
  apply BitVec.eq_of_getLsbD_eq
  intro i _
  rw [BitVec.getLsbD_and, BitVec.getLsbD_and]
  cases hk : k.getLsbD i with
  | false => rw [Bool.and_false, Bool.and_false]
  | true =>
    rw [portWrite_bit_kept v s fun ha => ?_]
    simpa [hk] using congrArg (·.getLsbD i) (hm ha)

theorem rsMask_enBit {c : SessionConfig} (hc : validConfig c = true) : (rsMask c).getLsbD c.enBit.toNat = false := by
  rw [rsMask, bitMask_bit, decide_eq_false_iff_not, BitVec.toNat_inj]
  exact (validConfig_bits hc).symm

theorem enMask_rsBit {c : SessionConfig} (hc : validConfig c = true) : (enMask c).getLsbD c.rsBit.toNat = false := by
  rw [enMask, bitMask_bit, decide_eq_false_iff_not, BitVec.toNat_inj]
  exact validConfig_bits hc

theorem enMask_enBit (c : SessionConfig) : (enMask c).getLsbD c.enBit.toNat = true := by
  rw [enMask, bitMask_bit, decide_eq_true rfl]

theorem rsMask_rsBit (c : SessionConfig) : (rsMask c).getLsbD c.rsBit.toNat = true := by
  rw [rsMask, bitMask_bit, decide_eq_true rfl]

/-- On a shared port no bit of the bus is a control bit (10_state.md R23). -/
theorem control_and_busMask {c : SessionConfig} {i : BitVec 3} (hc : validConfig c = true)
    (hp : c.dataPort = c.ctrlPort) (hi : i = c.rsBit ∨ i = c.enBit) :
    bitMask i &&& busMask c = 0 ∧ (busMask c).getLsbD i.toNat = false := by
  have hboth : rsMask c &&& busMask c = 0 ∧ enMask c &&& busMask c = 0 := by
    have hor := validConfig_shared hc hp
    rw [BitVec.and_or_distrib_right] at hor
    exact BitVec.or_eq_zero_iff.1 hor
  have hmask : bitMask i &&& busMask c = 0 := by
    obtain rfl | rfl := hi
    · exact hboth.1
    · exact hboth.2
  refine ⟨hmask, ?_⟩
  simpa [bitMask_bit] using congrArg (·.getLsbD i.toNat) hmask

section

variable {s : State} {c : SessionConfig} (hc : validConfig c = true)
include hc

/-- A write of the E bit changes the E line only. -/
theorem linesOf_writeEnable (v : Byte) :
    linesOf (portWrite c.ctrlPort (enMask c) v s) c =
      { linesOf s c with enable := v.getLsbD c.enBit.toNat } := by
  have henable : enableLine (portWrite c.ctrlPort (enMask c) v s) c = v.getLsbD c.enBit.toNat := by
    rw [enableLine, portWrite_bit, if_pos ⟨rfl, enMask_enBit c⟩]
  have hrs : rsLine (portWrite c.ctrlPort (enMask c) v s) c = rsLine s c :=
    portWrite_bit_kept v s fun _ => enMask_rsBit hc
  have hdata := portWrite_bits_kept v s fun hp => (control_and_busMask hc hp (.inr rfl)).1
  rw [linesOf, henable, hrs]
  exact congrArg (Lines.mk _ _) hdata

/-- A write of the RS bit changes the RS line only. -/
theorem linesOf_writeRs (v : Byte) :
    linesOf (portWrite c.ctrlPort (rsMask c) v s) c = { linesOf s c with rs := v.getLsbD c.rsBit.toNat } := by
  have hrs : rsLine (portWrite c.ctrlPort (rsMask c) v s) c = v.getLsbD c.rsBit.toNat := by
    rw [rsLine, portWrite_bit, if_pos ⟨rfl, rsMask_rsBit c⟩]
  have henable : enableLine (portWrite c.ctrlPort (rsMask c) v s) c = enableLine s c :=
    portWrite_bit_kept v s fun _ => rsMask_enBit hc
  have hdata := portWrite_bits_kept v s fun hp => (control_and_busMask hc hp (.inl rfl)).1
  rw [linesOf, henable, hrs]
  exact congrArg (Lines.mk _ _) hdata

/-- A write of the bus-owned bits of the data port changes those only. -/
theorem linesOf_writeBus (v : Byte) :
    linesOf (portWrite c.dataPort (busMask c) v s) c = { linesOf s c with data := v &&& busMask c } := by
  have henable : enableLine (portWrite c.dataPort (busMask c) v s) c = enableLine s c :=
    portWrite_bit_kept v s fun hp => (control_and_busMask hc hp.symm (.inr rfl)).2
  have hrs : rsLine (portWrite c.dataPort (busMask c) v s) c = rsLine s c :=
    portWrite_bit_kept v s fun hp => (control_and_busMask hc hp.symm (.inl rfl)).2
  have hdata : (portWrite c.dataPort (busMask c) v s).port c.dataPort &&& busMask c = v &&& busMask c := by
    apply BitVec.eq_of_getLsbD_eq
    intro i _
    rw [portWrite_same, BitVec.getLsbD_and, BitVec.getLsbD_and, masked_bit]
    cases (busMask c).getLsbD i <;> simp
  rw [linesOf, henable, hrs, hdata]
  rfl

end

/-! ### What a list of micro-steps latches -/

/-- From the lines `l`, the list latches these transfers of the session `n` and leaves the lines `l'`. -/
def Drives (c : SessionConfig) (n : Nat) (body : List MicroStep) (l : Lines) (ts : List Transfer) (l' : Lines) : Prop :=
  ∀ s : State, s.HasConfig c → s.cur = n → linesOf s c = l →
    (performAll body s).latched = s.latched ++ ts ∧ linesOf (performAll body s) c = l'

section

variable {c : SessionConfig} {n : Nat}

theorem drives_append {a b : List MicroStep} {l l' l'' : Lines} {ts us : List Transfer} (ha : Drives c n a l ts l')
    (hb : Drives c n b l' us l'') : Drives c n (a ++ b) l (ts ++ us) l'' := by
  intro s hs hn hl
  obtain ⟨hlatched, hlines⟩ := ha s hs hn hl
  obtain ⟨-, hcur, -, -⟩ := performAll_fixed a s
  obtain ⟨hlatched', hlines'⟩ := hb (performAll a s) (performAll_hasConfig a hs) (hcur.trans hn) hlines
  rw [performAll_append]
  exact ⟨by rw [hlatched', hlatched, List.append_assoc], hlines'⟩

/-- A micro-step that writes no port latches nothing. -/
theorem drives_noWrite {m : MicroStep} (l : Lines) (hm : ∀ h msk v, m ≠ .pw h msk v) : Drives c n [m] l [] l := by
  intro s _ _ hl
  rw [performAll_cons, performAll_nil, List.append_nil, linesOf, enableLine, rsLine, perform_port s _ hm,
    perform_port s _ hm]
  refine ⟨?_, hl⟩
  cases m with
  | pw h msk v => exact absurd rfl (hm h msk v)
  | dly | cse | csr => rfl
  | cw reg v =>
    show (cacheWrite reg v s).latched = s.latched
    unfold cacheWrite
    cases s.live <;> rfl

theorem drives_dly (l : Lines) (d : Duration) : Drives c n [.dly d] l [] l := drives_noWrite l nofun

theorem portWrite_latched_of_config {s : State} (h : Handle) (m v : Byte) (hs : s.HasConfig c) :
    (portWrite h m v s).latched =
      if h = c.ctrlPort ∧ enableLine s c = true ∧ enableLine (portWrite h m v s) c = false
      then s.latched ++ [transferOf (portWrite h m v s) c] else s.latched := by
  obtain ⟨r, hl, rfl⟩ := hs
  exact portWrite_latched h m v hl

/-- A port write that is no falling edge of E latches nothing. -/
theorem drives_portWrite {h : Handle} {m v : Byte} {l l' : Lines}
    (hlines : ∀ s : State, linesOf s c = l → linesOf (portWrite h m v s) c = l')
    (hedge : ¬(l.enable = true ∧ l'.enable = false)) : Drives c n [.pw h m v] l [] l' := by
  intro s hs _ hl
  have hlines' := hlines s hl
  refine ⟨?_, hlines'⟩
  rw [← hl, ← hlines'] at hedge
  rw [performAll_cons, performAll_nil, perform_pw, portWrite_latched_of_config h m v hs, List.append_nil]
  exact if_neg fun hfall => hedge hfall.2

variable (hc : validConfig c = true)
include hc

theorem drives_setRs (l : Lines) (rs : Bool) : Drives c n (setRsSteps c rs) l [] { l with rs := rs } := by
  refine drives_portWrite (fun s hl => ?_) (by simp)
  rw [linesOf_writeRs hc, hl]
  cases rs with
  | false => simp
  | true => rw [if_pos rfl, rsMask_rsBit]

theorem drives_load (l : Lines) (v : Byte) :
    Drives c n [.pw c.dataPort (busMask c) v] l [] { l with data := v &&& busMask c } :=
  drives_portWrite (fun s hl => by rw [linesOf_writeBus hc, hl]) (by simp)

theorem drives_raise (l : Lines) :
    Drives c n [.pw c.ctrlPort (enMask c) (enMask c)] l [] { l with enable := true } :=
  drives_portWrite (fun s hl => by rw [linesOf_writeEnable hc, hl, enMask_enBit]) (by simp)

/-- E taken low latches the lines if it was high (20_memory.md R58; log 19). -/
theorem drives_lower (l : Lines) :
    Drives c n [.pw c.ctrlPort (enMask c) 0] l (if l.enable then [l.transfer n c] else [])
      { l with enable := false } := by
  intro s hs hn hl
  have hlines : linesOf (portWrite c.ctrlPort (enMask c) 0 s) c = { l with enable := false } := by
    simp [linesOf_writeEnable hc, hl]
  have hcur : (portWrite c.ctrlPort (enMask c) 0 s).cur = n := (perform_cur (.pw c.ctrlPort (enMask c) 0) s).trans hn
  have hbefore : enableLine s c = l.enable := congrArg Lines.enable hl
  have hafter : enableLine (portWrite c.ctrlPort (enMask c) 0 s) c = false := congrArg Lines.enable hlines
  refine ⟨?_, hlines⟩
  rw [performAll_cons, performAll_nil, perform_pw, portWrite_latched_of_config _ _ _ hs, transferOf_eq, hlines, hcur,
    hbefore, hafter]
  cases l.enable with
  | false => simp
  | true => simp [Lines.transfer]

/-- A PULSE latches the lines as they stand, and before that once more if E is high on entry (40_bus_and_pulse.md R100,
70_reset_and_hazards.md R239). -/
theorem drives_pulse (t : Timing) (l : Lines) :
    Drives c n (pulseSteps c t) l (fromLevel l.enable [l.transfer n c]) { l with enable := false } := by
  have h := drives_append (drives_lower hc (n := n) l) <| drives_append (drives_dly _ (.us t.tESetup)) <|
    drives_append (drives_raise hc _) <| drives_append (drives_dly _ (.us t.tEHigh)) <|
    drives_append (drives_lower hc _) (drives_dly _ (.us t.tExec))
  have hts : fromLevel l.enable [l.transfer n c] =
      (if l.enable then [l.transfer n c] else []) ++ [l.transfer n c] := by
    cases l.enable <;> rfl
  rw [hts]
  exact h

/-- A POKE latches the bus-owned bits of its byte with RS as it stands (R107). -/
theorem drives_poke (t : Timing) (l : Lines) (v : Byte) :
    Drives c n (pokeSteps c t v) l (fromLevel l.enable [pokeTransfer n c.busWidth l.rs v])
      ⟨false, l.rs, v &&& busMask c⟩ := by
  have htransfer : pokeTransfer n c.busWidth l.rs v = Lines.transfer ⟨l.enable, l.rs, v &&& busMask c⟩ n c := by
    rw [Lines.transfer, dataLines_busMask]
    unfold pokeTransfer dataLines
    cases c.busWidth <;> rfl
  rw [htransfer]
  exact drives_append (drives_load hc l v) (drives_pulse hc t _)

omit hc in
/-- A WRITE of eight lines sets RS and pokes its byte (R103, R105). -/
theorem writeSteps_eightBit (t : Timing) (b : Byte) (rs : Bool) (hw : c.busWidth = .eightBit) :
    writeSteps c t b rs = setRsSteps c rs ++ pokeSteps c t b := by
  simp [writeSteps, write8Steps, pokeSteps, busMask, widthMask, hw]

omit hc in
/-- A WRITE of four lines sets RS and pokes the high and then the low nibble (R104, R105). -/
theorem writeSteps_fourBit (t : Timing) (b : Byte) (rs : Bool) (hw : c.busWidth = .fourBit) :
    writeSteps c t b rs =
      setRsSteps c rs ++ (pokeSteps c t (highNibble b) ++ pokeSteps c t (lowNibble b)) := by
  simp [writeSteps, write4Steps, pokeSteps, busMask, widthMask, hw]

/-- A WRITE latches its byte, or its high and then its low nibble, with RS as it sets it (R103, R104). -/
theorem drives_write (t : Timing) (l : Lines) (b : Byte) (rs : Bool) :
    Drives c n (writeSteps c t b rs) l (fromLevel l.enable (wordTransfers n c.busWidth rs b))
      ⟨false, rs, lastLoad c.busWidth b &&& busMask c⟩ := by
  cases hw : c.busWidth with
  | eightBit =>
    have h := drives_append (drives_setRs hc (n := n) l rs) (drives_poke hc t _ b)
    rw [hw] at h
    rw [writeSteps_eightBit t b rs hw]
    exact h
  | fourBit =>
    have h := drives_append (drives_setRs hc (n := n) l rs)
      (drives_append (drives_poke hc t _ (highNibble b)) (drives_poke hc t _ (lowNibble b)))
    have hhigh : ∀ b : Byte, (highNibble b).extractLsb' 4 4 = b.extractLsb' 4 4 := by decide
    have hlow : ∀ b : Byte, (lowNibble b).extractLsb' 4 4 = b.extractLsb' 0 4 := by decide
    have hts : fromLevel l.enable (wordTransfers n .fourBit rs b) =
        fromLevel l.enable [pokeTransfer n .fourBit rs (highNibble b)] ++
          fromLevel false [pokeTransfer n .fourBit rs (lowNibble b)] := by
      rw [pokeTransfer, pokeTransfer, hhigh, hlow]
      cases l.enable <;> rfl
    rw [hw] at h
    rw [writeSteps_fourBit t b rs hw, hts]
    exact h

end

end Sys2Proof.Machine
end

section
/-! SUPPORT. Frames of transfers and of returned operations (40_bus_and_pulse.md R109; 20_memory.md R61), and the
proofs about the wire words (30_encoding.md R74-R86). -/

namespace Sys2Proof.Machine

/-! ### The frame of a transfer -/

/-- A micro-step of a transfer: a write of owned bits of one of the two ports, or a wait. -/
def TransferStep (c : SessionConfig) : MicroStep → Prop
  | .pw h m _ => (h = c.dataPort ∨ h = c.ctrlPort) ∧ m &&& ~~~ownedMask c h = 0
  | .dly _ => True
  | .cse | .csr | .cw _ _ => False

section

variable (c : SessionConfig) (t : Timing)

theorem transferSteps_dly (d : Duration) : ∀ m ∈ [MicroStep.dly d], TransferStep c m := by simp [TransferStep]

theorem transferSteps_pulse : ∀ m ∈ pulseSteps c t, TransferStep c m := by
  simp [pulseSteps, TransferStep, owned_en]

theorem transferSteps_setRs (rs : Bool) : ∀ m ∈ setRsSteps c rs, TransferStep c m := by
  simp [setRsSteps, TransferStep, owned_rs]

theorem transferSteps_poke (v : Byte) : ∀ m ∈ pokeSteps c t v, TransferStep c m :=
  List.forall_mem_cons.2 ⟨⟨.inl rfl, owned_bus c⟩, transferSteps_pulse c t⟩

theorem transferSteps_write (b : Byte) (rs : Bool) : ∀ m ∈ writeSteps c t b rs, TransferStep c m := by
  cases hw : c.busWidth with
  | eightBit =>
    rw [writeSteps_eightBit t b rs hw]
    exact List.forall_mem_append.2 ⟨transferSteps_setRs c rs, transferSteps_poke c t b⟩
  | fourBit =>
    rw [writeSteps_fourBit t b rs hw]
    exact List.forall_mem_append.2 ⟨transferSteps_setRs c rs,
      List.forall_mem_append.2 ⟨transferSteps_poke c t _, transferSteps_poke c t _⟩⟩

end

theorem transferFrame_refl {s : State} {r : SessionRegs} (hs : s.live = some r) : TransferFrame s s r :=
  ⟨fun _ _ _ => rfl, fun _ => rfl, rfl, rfl, rfl, rfl, rfl, rfl, fun _ _ => otherKept_refl _ _, ⟨r.rx, hs⟩, [],
    (List.append_nil _).symm⟩

theorem TransferFrame.live {s u : State} {r : SessionRegs} (h : TransferFrame s u r) :
    ∃ rx, u.live = some { r with rx := rx } := by
  obtain ⟨-, -, -, -, -, -, -, -, -, hlive, -⟩ := h
  exact hlive

theorem transferFrame_trans {s u w : State} {r : SessionRegs} {rx : Receiver} (hsu : TransferFrame s u r)
    (huw : TransferFrame u w { r with rx := rx }) : TransferFrame s w r := by
  obtain ⟨hport, howned, hie, htok, hseq, hcur, htiming, hinput, hother, -, es, htrace⟩ := hsu
  obtain ⟨hport', howned', hie', htok', hseq', hcur', htiming', hinput', hother', hlive', es', htrace'⟩ := huw
  exact ⟨fun h hd hcp => (hport' h hd hcp).trans (hport h hd hcp), fun h => (howned' h).trans (howned h),
    hie'.trans hie, htok'.trans htok, hseq'.trans hseq, hcur'.trans hcur, htiming'.trans htiming,
    hinput'.trans hinput, fun k hk => otherKept_trans (hother k hk) (hother' k (hcur ▸ hk)), hlive', es ++ es',
    by rw [htrace', htrace, List.append_assoc]⟩

theorem perform_transferFrame {s : State} {r : SessionRegs} {m : MicroStep} (hs : s.live = some r)
    (hm : TransferStep r.cfg m) : TransferFrame s (perform m s) r := by
  cases m with
  | pw h msk v =>
    obtain ⟨hh, howned⟩ := hm
    refine ⟨fun a hd hcp => portWrite_other msk v ?_, fun a => perform_outside_owned s a howned,
      portWrite_ie h msk v s, portWrite_tok h msk v s, perform_seq _ s, perform_cur _ s, perform_timing _ s,
      perform_input _ s, fun k hk => perform_otherKept howned hk, portWrite_live h msk v hs, _,
      portWrite_trace h msk v s⟩
    rintro rfl
    exact hh.elim hd hcp
  | dly d =>
    exact ⟨fun _ _ _ => rfl, fun _ => rfl, rfl, rfl, rfl, rfl, rfl, rfl, fun _ _ => otherKept_refl _ _, ⟨r.rx, hs⟩,
      _, rfl⟩
  | cse | csr | cw => exact hm.elim

/-- A list of micro-steps of a transfer has the frame of a transfer. -/
theorem performAll_transferFrame {s : State} {r : SessionRegs} {ms : List MicroStep} (hs : s.live = some r)
    (hms : ∀ m ∈ ms, TransferStep r.cfg m) : TransferFrame s (performAll ms s) r := by
  induction ms generalizing s r with
  | nil => exact transferFrame_refl hs
  | cons m ms ih =>
    obtain ⟨hm, hms⟩ := List.forall_mem_cons.1 hms
    have hfirst := perform_transferFrame hs hm
    obtain ⟨rx, hl⟩ := hfirst.live
    exact transferFrame_trans hfirst (ih hl hms)

/-! ### The frame of a returned operation -/

/-- The state in which an operation with this body returns. -/
theorem complete_bracketed (s : State) (body : List MicroStep) :
    (s.withSeq (.busy (bracketed body))).complete =
      (perform .csr (performAll body (perform .cse s))).withSeq .idle := by
  rw [State.complete, State.withSeq_seq, Seq.steps_busy, performAll_withSeq, bracketed, performAll_cons,
    performAll_append]
  rfl

/-- A body with the frame of a transfer, after which the session's caches are replaced, has the frame of a returned
operation. -/
theorem returnFrame_withLive {s u : State} {r : SessionRegs} {rx : Receiver} (dc em fs : Option Byte)
    (h : TransferFrame (perform .cse s) u r) (hu : u.live = some { r with rx := rx }) :
    ReturnFrame s ((perform .csr (u.withLive { r with dc := dc, em := em, fs := fs, rx := rx })).withSeq .idle) r
      dc em fs := by
  obtain ⟨hport, howned, -, htok, -, hcur, htiming, hinput, hother, -, es, htrace⟩ := h
  refine ⟨hport, howned, htok, htok, rfl, hcur, htiming, hinput, fun k hk => ?_, ⟨rx, ?_⟩,
    [.cse] ++ es ++ [.csr], ?_⟩
  · have hkept := State.withLive_other (s := u) { r with dc := dc, em := em, fs := fs, rx := rx } (hcur ▸ hk)
    have hfrom := hother k hk
    rw [← hkept] at hfrom
    exact hfrom
  · exact State.withLive_live (s := u) _ hu
  · show u.trace ++ [.csr] = _
    rw [htrace]
    simp [perform_cse]

theorem State.withLive_self {s : State} {r : SessionRegs} (h : s.live = some r) : s.withLive r = s := by
  obtain ⟨hlt, hget⟩ := List.getElem?_eq_some_iff.1 (State.live_eq_some.1 h)
  have hset : s.sessions.set s.cur (.valid r) = s.sessions := by rw [← hget, List.set_getElem_self]
  rw [State.withLive, hset]
  rfl

/-! ### Operations that complete -/

/-- Whatever the lines, the body latches these transfers, the first one twice if E is high on entry, and leaves E low
if there are any. -/
def Sends (c : SessionConfig) (n : Nat) (body : List MicroStep) (ts : List Transfer) : Prop :=
  ∀ l, ∃ l', Drives c n body l (fromLevel l.enable ts) l' ∧ (ts ≠ [] → l'.enable = false)

theorem sends_append_noWrite {c : SessionConfig} {n : Nat} {body : List MicroStep} {ts : List Transfer}
    {m : MicroStep} (h : Sends c n body ts) (hm : ∀ a msk v, m ≠ .pw a msk v) : Sends c n (body ++ [m]) ts := by
  intro l
  obtain ⟨l', hdrives, hlow⟩ := h l
  have happend := drives_append hdrives (drives_noWrite l' hm)
  rw [List.append_nil] at happend
  exact ⟨l', happend, hlow⟩

theorem sends_write {c : SessionConfig} (n : Nat) (t : Timing) (b : Byte) (rs : Bool) (hc : validConfig c = true) :
    Sends c n (writeSteps c t b rs) (wordTransfers n c.busWidth rs b) :=
  fun l => ⟨_, drives_write hc t l b rs, fun _ => rfl⟩

section

variable {i : Instr} {s : State} {r : SessionRegs} {body : List MicroStep} {ts : List Transfer}

theorem Sends.returned (h : Sends r.cfg s.cur body ts) (hs : s.live = some r) :
    (enableLine s r.cfg = false → (s.withSeq (.busy (bracketed body))).complete.latched = s.latched ++ ts) ∧
      (ts ≠ [] → enableLine (s.withSeq (.busy (bracketed body))).complete r.cfg = false) := by
  obtain ⟨l', hdrives, hlow⟩ := h (linesOf s r.cfg)
  obtain ⟨hlatched, hlines⟩ := hdrives (perform .cse s) ⟨r, hs, rfl⟩ rfl rfl
  rw [complete_bracketed]
  refine ⟨fun he => ?_, fun hne => ?_⟩
  · rw [linesOf, he] at hlatched
    exact hlatched
  · exact (congrArg Lines.enable hlines).trans (hlow hne)

/-- An operation whose body is a transfer's completes and leaves the caches. -/
theorem completes_transfer (hr : Ready s r) (hexec : exec i s = .next (s.withSeq (.busy (bracketed body))))
    (hsteps : ∀ m ∈ body, TransferStep r.cfg m)
    (hsends : validConfig r.cfg = true → Sends r.cfg s.cur body ts) :
    Completes i s r body ts r.dc r.em r.fs := by
  obtain ⟨-, hl⟩ := hr
  refine ⟨hexec, ?_, fun hc => (hsends hc).returned hl⟩
  have hframe := performAll_transferFrame (s := perform .cse s) hl hsteps
  obtain ⟨rx, hu⟩ := hframe.live
  have hreturn := returnFrame_withLive r.dc r.em r.fs hframe hu
  rwa [State.withLive_self hu, ← complete_bracketed] at hreturn

theorem setCache_withRx (r : SessionRegs) (rx : Receiver) (reg : CacheReg) (v : Byte) :
    setCache { r with rx := rx } reg v =
      { r with dc := (setCache r reg v).dc, em := (setCache r reg v).em, fs := (setCache r reg v).fs, rx := rx } := by
  cases reg <;> rfl

/-- An operation whose body is a transfer's and then a cache write completes with the value cached. -/
theorem completes_cached (reg : CacheReg) (v : Byte) (hr : Ready s r)
    (hexec : exec i s = .next (s.withSeq (.busy (bracketed (body ++ [.cw reg v])))))
    (hsteps : ∀ m ∈ body, TransferStep r.cfg m)
    (hsends : validConfig r.cfg = true → Sends r.cfg s.cur body ts) :
    Completes i s r (body ++ [.cw reg v]) ts (setCache r reg v).dc (setCache r reg v).em (setCache r reg v).fs := by
  obtain ⟨-, hl⟩ := hr
  refine ⟨hexec, ?_, fun hc => (sends_append_noWrite (m := .cw reg v) (hsends hc) nofun).returned hl⟩
  have hframe := performAll_transferFrame (s := perform .cse s) hl hsteps
  obtain ⟨rx, hu⟩ := hframe.live
  have hcached : performAll (body ++ [.cw reg v]) (perform .cse s) =
      (performAll body (perform .cse s)).withLive (setCache { r with rx := rx } reg v) := by
    rw [performAll_append, performAll_cons, performAll_nil, perform_cw reg v hu]
    rfl
  rw [complete_bracketed, hcached, setCache_withRx]
  exact returnFrame_withLive _ _ _ hframe hu

theorem startPublic_ready (b : SessionConfig → Timing → List MicroStep) (hr : Ready s r) :
    startPublic s b = .next (s.withSeq (.busy (bracketed (b r.cfg s.timing)))) :=
  onSession_ready _ hr.1 hr.2

/-- A public operation with one WRITE and waits after it (42_commands.md R160). -/
theorem sendsOne_of_startPublic {b : Byte} {rs : Bool} {after : Timing → List MicroStep}
    (hexec : ∀ s, exec i s = startPublic s fun c t => writeSteps c t b rs ++ after t)
    (hafter : ∀ t, after t = [] ∨ ∃ d, after t = [.dly d]) : SendsOne i b rs after := by
  refine ⟨fun s r hr => ?_, fun s hi hinv => (hexec s).trans (onSession_invalid _ hi hinv)⟩
  have hsends (hc : validConfig r.cfg = true) := sends_write s.cur s.timing b rs hc
  refine completes_transfer hr ((hexec s).trans (startPublic_ready _ hr)) ?_ fun hc => ?_
  · refine List.forall_mem_append.2 ⟨transferSteps_write r.cfg s.timing b rs, ?_⟩
    obtain h | ⟨d, h⟩ := hafter s.timing <;> rw [h]
    · exact nofun
    · exact transferSteps_dly r.cfg d
  · obtain h | ⟨d, h⟩ := hafter s.timing <;> rw [h]
    · rw [List.append_nil]; exact hsends hc
    · exact sends_append_noWrite (hsends hc) nofun

theorem sendsOne_of_startPublic_write {b : Byte} {rs : Bool}
    (hexec : ∀ s, exec i s = startPublic s fun c t => writeSteps c t b rs) : SendsOne i b rs fun _ => [] :=
  sendsOne_of_startPublic (fun s => by simp only [hexec, List.append_nil]) fun _ => .inl rfl

/-- An operation with one WRITE of a byte, which is cached then (42_commands.md R181). -/
theorem completes_writeCached (reg : CacheReg) (b : Byte) (hr : Ready s r)
    (hexec : exec i s = .next (s.withSeq (.busy (bracketed (cachedBody reg b r.cfg s.timing))))) :
    Completes i s r (writeSteps r.cfg s.timing b false ++ [.cw reg b])
      (wordTransfers s.cur r.cfg.busWidth false b) (setCache r reg b).dc (setCache r reg b).em
      (setCache r reg b).fs :=
  completes_cached reg b hr hexec (transferSteps_write _ _ _ _) fun hc => sends_write _ _ _ _ hc

end

/-! ### POKE -/

theorem startInternal_live {s : State} {r : SessionRegs} (body : SessionConfig → Timing → List MicroStep)
    (hl : s.live = some r) :
    startInternal s body = .next (s.withSeq (.ofSteps (body r.cfg s.timing ++ s.seq.steps))) := by
  rw [startInternal, State.live_eq_some.1 hl]
  rfl

/-- Settles O31: the lines after loading the byte and pulsing once. -/
theorem pokeTransfersWithRsAsItStands : Obligations.PokeTransfersWithRsAsItStands := by
  rintro s r v _ hl rfl
  refine ⟨⟨startInternal_live (fun c t => pokeSteps c t v) hl,
    performAll_transferFrame hl (transferSteps_poke r.cfg s.timing v)⟩, fun hc => ?_⟩
  obtain ⟨hlatched, hlines⟩ := drives_poke hc s.timing (linesOf s r.cfg) v s ⟨r, hl, rfl⟩ rfl rfl
  refine ⟨fun he => ?_, congrArg Lines.rs hlines, congrArg Lines.enable hlines, congrArg Lines.data hlines⟩
  rw [linesOf, he] at hlatched
  exact hlatched

/-! ### The raw pokes -/

section

variable {s : State} {r : SessionRegs} {w : BusWidth}

theorem emitPoke_ready (v : Byte) (hr : Ready s r) (hw : r.cfg.busWidth = w) :
    emitPoke s w v = .next (s.withSeq (.busy (bracketed (setRsSteps r.cfg false ++ pokeSteps r.cfg s.timing v)))) :=
  (onSession_ready _ hr.1 hr.2).trans (if_pos hw)

theorem emitPoke_otherWidth (v : Byte) (hr : Ready s r) (hw : r.cfg.busWidth ≠ w) :
    emitPoke s w v = .refused .notEmitted :=
  (onSession_ready _ hr.1 hr.2).trans (if_neg hw)

theorem sends_rawPoke {c : SessionConfig} (n : Nat) (t : Timing) (v : Byte) (hc : validConfig c = true) :
    Sends c n (setRsSteps c false ++ pokeSteps c t v) [pokeTransfer n c.busWidth false v] :=
  fun l => ⟨_, drives_append (drives_setRs hc l false) (drives_poke hc t _ v), fun _ => rfl⟩

theorem completes_rawPoke {i : Instr} {v : Byte} (hexec : ∀ s, exec i s = emitPoke s w v) (hr : Ready s r)
    (hw : r.cfg.busWidth = w) :
    Completes i s r (setRsSteps r.cfg false ++ pokeSteps r.cfg s.timing v) [pokeTransfer s.cur w false v]
      r.dc r.em r.fs := by
  refine completes_transfer hr ((hexec s).trans (emitPoke_ready v hr hw)) ?_ fun hc => ?_
  · exact List.forall_mem_append.2 ⟨transferSteps_setRs r.cfg false, transferSteps_poke r.cfg s.timing v⟩
  · rw [← hw]; exact sends_rawPoke s.cur s.timing v hc

end

/-- Settles O54: each raw poke is RS put low and one POKE on a session of its width. -/
theorem rawPokesAreEmitted : Obligations.RawPokesAreEmitted := fun _ _ hr =>
  ⟨completes_rawPoke (i := .syncPoke8) (v := syncPattern) (fun _ => rfl) hr, fun hw =>
    ⟨completes_rawPoke (i := .syncPoke4) (v := syncPattern) (fun _ => rfl) hr hw,
      completes_rawPoke (i := .to4Poke) (v := to4Pattern) (fun _ => rfl) hr hw⟩⟩

/-! ### Bus words -/

section

variable {s : State} {r : SessionRegs} {dl n f : Bool} {x : BitVec 2}

/-- The function sets that the block emits (R79, R86). -/
theorem functionSet_eq_fsv (dl n f : Bool) (x : BitVec 2) (w : BusWidth) :
    wordByte (.functionSet dl n f x) = fsv w ↔ dl = (w == .eightBit) ∧ n = true ∧ f = false ∧ x = 0 := by
  cases w <;> revert dl n f x <;> decide

theorem exec_functionSet_never
    (h : ∀ w, wordByte (.functionSet dl n f x) ≠ fsv w) : exec (.functionSet dl n f x) s = .refused .notEmitted :=
  if_neg (not_or.2 ⟨h .fourBit, h .eightBit⟩)

theorem exec_functionSet_otherWidth (hr : Ready s r) (h : wordByte (.functionSet dl n f x) ≠ fsv r.cfg.busWidth) :
    exec (.functionSet dl n f x) s = .refused .notEmitted := by
  by_cases hb : wordByte (.functionSet dl n f x) = fsv .fourBit ∨ wordByte (.functionSet dl n f x) = fsv .eightBit
  · exact (if_pos hb).trans ((onSession_ready _ hr.1 hr.2).trans (if_neg h))
  · exact if_neg hb

theorem exec_functionSet_ready (hr : Ready s r) (h : wordByte (.functionSet dl n f x) = fsv r.cfg.busWidth) :
    exec (.functionSet dl n f x) s =
      .next (s.withSeq (.busy (bracketed (cachedBody .fs (fsv r.cfg.busWidth) r.cfg s.timing)))) := by
  have hb : wordByte (.functionSet dl n f x) = fsv .fourBit ∨ wordByte (.functionSet dl n f x) = fsv .eightBit := by
    cases hw : r.cfg.busWidth with
    | fourBit => rw [h, hw]; exact .inl rfl
    | eightBit => rw [h, hw]; exact .inr rfl
  rw [← h]
  exact (if_pos hb).trans ((onSession_ready _ hr.1 hr.2).trans (if_pos h))

end

/-- Settles O53: each word is one WRITE of its byte, with a wait or a cache write after it. -/
theorem wireWordsAreEmitted : Obligations.WireWordsAreEmitted := by
  refine ⟨?_, fun x => ?_, fun rl x => ?_, fun a => ?_, fun d => ?_, fun id sh b s r hr hb => ?_,
    fun d c k b s r hr hb => ?_, fun b s r hr hb => ?_⟩
  · exact sendsOne_of_startPublic (fun _ => rfl) fun t => .inr ⟨_, rfl⟩
  · exact sendsOne_of_startPublic (fun _ => rfl) fun t => .inr ⟨_, rfl⟩
  · have hbyte : codeShift ||| flagSC ||| flagIf rl flagRL = if rl then 0x1C else 0x18 := by cases rl <;> rfl
    rw [← hbyte]
    exact sendsOne_of_startPublic_write fun _ => rfl
  · exact sendsOne_of_startPublic_write fun _ => rfl
  · exact sendsOne_of_startPublic_write fun _ => rfl
  · subst hb
    exact completes_writeCached .em _ hr (startPublic_ready _ hr)
  · subst hb
    exact completes_writeCached .dc _ hr (startPublic_ready _ hr)
  · subst hb
    have hfsv : (if r.cfg.busWidth = .eightBit then 0x38 else 0x28) = fsv r.cfg.busWidth := by
      cases r.cfg.busWidth <;> rfl
    rw [hfsv]
    exact completes_writeCached .fs _ hr
      (exec_functionSet_ready hr ((functionSet_eq_fsv _ _ _ _ _).2 ⟨rfl, rfl, rfl, rfl⟩))

/-- Settles O55: some words are refused whatever the state, the others by their byte or by the session's width. -/
theorem neverEmittedWordsAreRefused : Obligations.NeverEmittedWordsAreRefused := by
  refine ⟨fun s a => rfl, fun s => rfl, fun s rl x => rfl, fun s dl n f x h => ?_, fun s r dl n f x hr h => ?_,
    fun s r hr hw => ?_, fun s r hr hw => ⟨?_, ?_⟩⟩
  · exact exec_functionSet_never fun w hb => h ((functionSet_eq_fsv dl n f x w).1 hb).2
  · exact exec_functionSet_otherWidth hr fun hb => h ((functionSet_eq_fsv dl n f x _).1 hb).1
  · exact emitPoke_otherWidth syncPattern hr (by rw [hw]; decide)
  · exact emitPoke_otherWidth syncPattern hr (by rw [hw]; decide)
  · exact emitPoke_otherWidth to4Pattern hr (by rw [hw]; decide)

end Sys2Proof.Machine
end

section
/-! SUPPORT. The proofs about the bus and its pulse (40_bus_and_pulse.md R100-R106): the ports after a PULSE, SET_RS,
the WRITE as a whole, and internal operations without their session. -/

namespace Sys2Proof.Machine

/-! ### Internal operations and the session (R105, R202, R36) -/

/-- An operation that starts the micro-steps of a transfer runs inside the operation in progress. -/
theorem runsInside_of_startInternal {i : Instr} {s : State} {r : SessionRegs}
    (body : SessionConfig → Timing → List MicroStep) (hl : s.live = some r) (hexec : exec i s = startInternal s body)
    (hsteps : ∀ m ∈ body r.cfg s.timing, TransferStep r.cfg m) : RunsInside i s r (body r.cfg s.timing) :=
  ⟨hexec.trans (startInternal_live body hl), performAll_transferFrame hl hsteps⟩

section

variable {s : State} (body : SessionConfig → Timing → List MicroStep)

theorem startInternal_invalid (h : s.sessions[s.cur]? = some .invalid) : startInternal s body = .next s := by
  rw [startInternal, h]

theorem startInternal_unconstructed (h : s.sessions[s.cur]? = none) :
    startInternal s body = .refused .unconstructed := by
  rw [startInternal, h]

theorem startVariant_ownWidth {r : SessionRegs} (hl : s.live = some r) :
    startVariant s r.cfg.busWidth body = startInternal s body := by
  rw [startVariant, hl]
  exact if_pos rfl

theorem startVariant_otherWidth {r : SessionRegs} {w : BusWidth} (hl : s.live = some r) (hw : r.cfg.busWidth ≠ w) :
    startVariant s w body = .refused .wrongWidth := by
  rw [startVariant, hl]
  exact if_neg hw

theorem startVariant_dead (w : BusWidth) (hl : s.live = none) : startVariant s w body = startInternal s body := by
  rw [startVariant, hl]

end

/-- With no valid session there is no width to check: every internal operation is `startInternal`. -/
theorem exec_internal_dead {i : Instr} {s : State} (hi : i.kind = .internalOp) (hl : s.live = none) :
    ∃ body, exec i s = startInternal s body := by
  cases i with
  | pulse => exact ⟨pulseSteps, rfl⟩
  | setRs rs => exact ⟨fun c _ => setRsSteps c rs, rfl⟩
  | write b rs => exact ⟨fun c t => writeSteps c t b rs, rfl⟩
  | poke v => exact ⟨fun c t => pokeSteps c t v, rfl⟩
  | write8 | write4 => exact ⟨_, startVariant_dead _ _ hl⟩
  | _ => cases hi

/-- Settles O34: the width is tested first, and only of a valid session. -/
theorem internalOperationsNeedTheirSession : Obligations.InternalOperationsNeedTheirSession := by
  refine ⟨fun s r b rs hl => ⟨fun hw => ?_, fun hw => ?_⟩, fun i s hi => ⟨fun hinvalid => ?_, fun hnone => ?_⟩⟩
  · exact startVariant_otherWidth _ hl (by rw [hw]; decide)
  · exact startVariant_otherWidth _ hl (by rw [hw]; decide)
  · obtain ⟨body, hexec⟩ := exec_internal_dead hi (by rw [State.live, hinvalid])
    rw [hexec, startInternal_invalid body hinvalid]
  · obtain ⟨body, hexec⟩ := exec_internal_dead hi (by rw [State.live, hnone])
    rw [hexec, startInternal_unconstructed body hnone]

/-! ### PULSE (R100) -/

/-- Two updates through one mask are the second one. -/
theorem masked_masked (old m v w : Byte) : masked (masked old m v) m w = masked old m w := by
  rw [masked, masked_outside, ← masked]

theorem masked_zero (old m : Byte) : masked old m 0 = old &&& ~~~m := by simp [masked]

theorem pulse_ctrlPort (c : SessionConfig) (t : Timing) (s : State) :
    (performAll (pulseSteps c t) s).port c.ctrlPort = s.port c.ctrlPort &&& ~~~enMask c := by
  simp only [pulseSteps, performAll_cons, performAll_nil, perform, State.record_port, portWrite_same, masked_masked]
  exact masked_zero _ _

theorem pulse_otherPort {c : SessionConfig} {a : Handle} (t : Timing) (s : State) (ha : a ≠ c.ctrlPort) :
    (performAll (pulseSteps c t) s).port a = s.port a := by
  simp only [pulseSteps, performAll_cons, performAll_nil, perform, State.record_port, portWrite_other _ _ ha]

theorem pulse_enableLine (c : SessionConfig) (t : Timing) (s : State) :
    enableLine (performAll (pulseSteps c t) s) c = false := by
  rw [enableLine, pulse_ctrlPort, BitVec.getLsbD_and, BitVec.getLsbD_not, enMask_enBit, Bool.not_true, Bool.and_false,
    Bool.and_false]

/-- Settles O26: the ports by the equations of a masked write, the transfer by the lines after a pulse from E low. -/
theorem pulseLatchesTheHeldLines : Obligations.PulseLatchesTheHeldLines := by
  rintro s r _ hl rfl
  refine ⟨runsInside_of_startInternal pulseSteps hl rfl (transferSteps_pulse r.cfg s.timing),
    fun a ha => pulse_otherPort s.timing s ha, pulse_ctrlPort r.cfg s.timing s, pulse_enableLine r.cfg s.timing s,
    fun hc he => ?_⟩
  obtain ⟨hlatched, -⟩ := drives_pulse hc s.timing (linesOf s r.cfg) s ⟨r, hl, rfl⟩ rfl rfl
  rw [← transferOf_eq, linesOf, he] at hlatched
  exact hlatched

theorem pulseSteps_mask {c : SessionConfig} {t : Timing} {h : Handle} {m v : Byte}
    (hm : MicroStep.pw h m v ∈ pulseSteps c t) : m = enMask c := by
  simp only [pulseSteps, List.mem_cons, MicroStep.pw.injEq, reduceCtorEq, List.not_mem_nil, or_false, false_or] at hm
  tauto

/-! ### SET_RS (R102) -/

theorem rsMask_enBit_of_ne {c : SessionConfig} (h : c.rsBit ≠ c.enBit) :
    (rsMask c).getLsbD c.enBit.toNat = false := by
  rw [rsMask, bitMask_bit, decide_eq_false_iff_not, BitVec.toNat_inj]
  exact h.symm

theorem setRs_rsLine (c : SessionConfig) (rs : Bool) (s : State) :
    rsLine (performAll (setRsSteps c rs) s) c = rs := by
  show ((portWrite _ _ _ s).port _).getLsbD _ = rs
  rw [portWrite_bit, if_pos ⟨rfl, rsMask_rsBit c⟩]
  cases rs with
  | false => exact BitVec.getLsbD_zero
  | true => exact rsMask_rsBit c

/-- Where RS is not the E bit, SET_RS makes no edge of E. -/
theorem setRs_latched {s : State} {r : SessionRegs} (rs : Bool) (hl : s.live = some r)
    (hne : r.cfg.rsBit ≠ r.cfg.enBit) : (performAll (setRsSteps r.cfg rs) s).latched = s.latched := by
  show (portWrite _ _ _ s).latched = _
  rw [portWrite_latched _ _ _ hl, enableLine, enableLine,
    portWrite_bit_kept _ _ fun _ => rsMask_enBit_of_ne hne]
  exact if_neg fun ⟨_, hhigh, hlow⟩ => Bool.noConfusion (hhigh.symm.trans hlow)

/-- The micro-steps of a WRITE after its SET_RS: a load and a pulse for each transfer (R103, R104). -/
def dataSteps (c : SessionConfig) (t : Timing) (b : Byte) : List MicroStep :=
  match c.busWidth with
  | .eightBit => pokeSteps c t b
  | .fourBit => pokeSteps c t (highNibble b) ++ pokeSteps c t (lowNibble b)

theorem writeSteps_eq_setRs_data (c : SessionConfig) (t : Timing) (b : Byte) (rs : Bool) :
    writeSteps c t b rs = setRsSteps c rs ++ dataSteps c t b := by
  cases hw : c.busWidth with
  | eightBit => rw [writeSteps_eightBit t b rs hw, dataSteps, hw]
  | fourBit => rw [writeSteps_fourBit t b rs hw, dataSteps, hw]

/-- Settles O27: SET_RS is one masked write of the RS bit, with which every WRITE begins. -/
theorem setRsWritesOnlyTheRsBit : Obligations.SetRsWritesOnlyTheRsBit := by
  rintro s r rs _ hl rfl
  refine ⟨runsInside_of_startInternal (fun c _ => setRsSteps c rs) hl rfl (transferSteps_setRs r.cfg rs),
    setRs_rsLine r.cfg rs s, fun a ha => portWrite_other _ _ ha, perform_outside _ _ _ s _,
    fun hne => setRs_latched rs hl hne, fun b => ?_, fun h m v => pulseSteps_mask⟩
  rw [writeSteps_eq_setRs_data]
  rfl

/-! ### WRITE (R103-R105) -/

section

variable {s : State} {r : SessionRegs} (b : Byte) (rs : Bool) (hl : s.live = some r)

theorem writeSteps_eq_write8Steps {c : SessionConfig} (t : Timing) (hw : c.busWidth = .eightBit) :
    writeSteps c t b rs = write8Steps c t b rs := by
  rw [writeSteps, hw]

theorem writeSteps_eq_write4Steps {c : SessionConfig} (t : Timing) (hw : c.busWidth = .fourBit) :
    writeSteps c t b rs = write4Steps c t b rs := by
  rw [writeSteps, hw]

include hl

theorem exec_write : exec (.write b rs) s =
    .next (s.withSeq (.ofSteps (writeSteps r.cfg s.timing b rs ++ s.seq.steps))) :=
  startInternal_live (fun c t => writeSteps c t b rs) hl

theorem exec_write8 (hw : r.cfg.busWidth = .eightBit) : exec (.write8 b rs) s = exec (.write b rs) s := by
  have hvariant := startVariant_ownWidth (fun c t => write8Steps c t b rs) hl
  rw [hw, startInternal_live _ hl, ← writeSteps_eq_write8Steps b rs s.timing hw] at hvariant
  exact hvariant.trans (exec_write b rs hl).symm

theorem exec_write4 (hw : r.cfg.busWidth = .fourBit) : exec (.write4 b rs) s = exec (.write b rs) s := by
  have hvariant := startVariant_ownWidth (fun c t => write4Steps c t b rs) hl
  rw [hw, startInternal_live _ hl, ← writeSteps_eq_write4Steps b rs s.timing hw] at hvariant
  exact hvariant.trans (exec_write b rs hl).symm

/-- What WRITE and its variants do on a session of their width. -/
theorem runsInside_write {i : Instr} (hi : exec i s = exec (.write b rs) s) :
    RunsInside i s r (writeSteps r.cfg s.timing b rs) :=
  runsInside_of_startInternal (fun c t => writeSteps c t b rs) hl hi (transferSteps_write r.cfg s.timing b rs)

/-- What a WRITE of a valid configuration latches from E low, and the lines that it leaves. -/
theorem write_performed (hc : validConfig r.cfg = true) :
    (enableLine s r.cfg = false →
      (performAll (writeSteps r.cfg s.timing b rs) s).latched =
        s.latched ++ wordTransfers s.cur r.cfg.busWidth rs b) ∧
    enableLine (performAll (writeSteps r.cfg s.timing b rs) s) r.cfg = false ∧
    rsLine (performAll (writeSteps r.cfg s.timing b rs) s) r.cfg = rs ∧
    (performAll (writeSteps r.cfg s.timing b rs) s).port r.cfg.dataPort &&& widthMask r.cfg.busWidth =
      lastLoad r.cfg.busWidth b &&& widthMask r.cfg.busWidth := by
  obtain ⟨hlatched, hlines⟩ := drives_write hc s.timing (linesOf s r.cfg) b rs s ⟨r, hl, rfl⟩ rfl rfl
  refine ⟨fun he => ?_, congrArg Lines.enable hlines, congrArg Lines.rs hlines, congrArg Lines.data hlines⟩
  rw [linesOf, he] at hlatched
  exact hlatched

end

theorem and_widthMask_eightBit (b : Byte) : b &&& widthMask .eightBit = b := BitVec.and_allOnes

theorem lowNibble_and_widthMask (b : Byte) : lowNibble b &&& widthMask .fourBit = lowNibble b := by
  rw [lowNibble, widthMask, BitVec.and_assoc, BitVec.and_self]

/-- Settles O28: the lines after the WRITE, all eight data lines among them. -/
theorem writeEightBitLatchesTheByte : Obligations.WriteEightBitLatchesTheByte := by
  intro s r b rs body hl hw hbody
  have hwrite : body = writeSteps r.cfg s.timing b rs :=
    hbody.trans (writeSteps_eq_write8Steps b rs s.timing hw).symm
  subst hwrite
  refine ⟨runsInside_write b rs hl (exec_write8 b rs hl hw), fun hc => ?_⟩
  have hperformed := write_performed b rs hl hc
  rw [hw, and_widthMask_eightBit, and_widthMask_eightBit] at hperformed
  exact hperformed

/-- Settles O29: the lines after the WRITE, the upper four of the data port among them. -/
theorem writeFourBitLatchesHighThenLowNibble : Obligations.WriteFourBitLatchesHighThenLowNibble := by
  intro s r b rs body hl hw hbody
  have hwrite : body = writeSteps r.cfg s.timing b rs :=
    hbody.trans (writeSteps_eq_write4Steps b rs s.timing hw).symm
  subst hwrite
  refine ⟨runsInside_write b rs hl (exec_write4 b rs hl hw), fun hc => ?_⟩
  have hperformed := write_performed b rs hl hc
  rw [hw, lastLoad, lowNibble_and_widthMask] at hperformed
  exact hperformed

/-- Settles O30: WRITE starts the list of the session's width, and so does that width's variant. -/
theorem writeDispatchesOnTheBusWidth : Obligations.WriteDispatchesOnTheBusWidth := by
  intro s r b rs hl
  exact ⟨exec_write b rs hl, fun hw => (exec_write8 b rs hl hw).symm, fun hw => (exec_write4 b rs hl hw).symm⟩

/-! ### The pulses of a WRITE and its one write of RS (R106) -/

theorem bitMask_ne_zero (i : BitVec 3) : bitMask i ≠ 0 := by revert i; decide

section

variable {c : SessionConfig}

/-- RS and E are different bits, so their masks meet nowhere. -/
theorem enMask_and_rsMask (hc : validConfig c = true) : enMask c &&& rsMask c = 0 := by
  have hbits : ∀ i j : BitVec 3, i ≠ j → bitMask j &&& bitMask i = 0 := by decide
  exact hbits c.rsBit c.enBit (validConfig_bits hc)

/-- No write of the list touches the RS bit of the control register. -/
def AvoidsRs (c : SessionConfig) (ms : List MicroStep) : Prop :=
  ∀ h m v, MicroStep.pw h m v ∈ ms → h = c.ctrlPort → m &&& rsMask c = 0

theorem avoidsRs_append {a b : List MicroStep} (ha : AvoidsRs c a) (hb : AvoidsRs c b) : AvoidsRs c (a ++ b) :=
  fun h m v hm => (List.mem_append.1 hm).elim (ha h m v) (hb h m v)

theorem avoidsRs_poke (t : Timing) (v : Byte) (hc : validConfig c = true) : AvoidsRs c (pokeSteps c t v) := by
  intro h m w hm hctrl
  obtain hload | hpulse := List.mem_cons.1 hm
  · cases hload
    rw [BitVec.and_comm]
    exact (control_and_busMask hc hctrl (.inl rfl)).1
  · rw [pulseSteps_mask hpulse]
    exact enMask_and_rsMask hc

theorem avoidsRs_data (t : Timing) (b : Byte) (hc : validConfig c = true) : AvoidsRs c (dataSteps c t b) := by
  unfold dataSteps
  cases c.busWidth with
  | eightBit => exact avoidsRs_poke t b hc
  | fourBit => exact avoidsRs_append (avoidsRs_poke t _ hc) (avoidsRs_poke t _ hc)

theorem pulseCount_append (c : SessionConfig) (a b : List MicroStep) :
    pulseCount c (a ++ b) = pulseCount c a + pulseCount c b := List.countP_append

/-- A write that does not touch the E bit of the control register does not raise E. -/
theorem pulseCount_pw {h : Handle} {m : Byte} (v : Byte) (hm : h = c.ctrlPort → enMask c &&& m = 0) :
    pulseCount c [.pw h m v] = 0 := by
  have hne : MicroStep.pw h m v ≠ .pw c.ctrlPort (enMask c) (enMask c) := by
    intro heq
    cases heq
    exact bitMask_ne_zero c.enBit ((BitVec.and_self).symm.trans (hm rfl))
  simp [pulseCount, hne]

theorem pulseCount_pulse (c : SessionConfig) (t : Timing) : pulseCount c (pulseSteps c t) = 1 := by
  have hne : 0#8 ≠ enMask c := (bitMask_ne_zero c.enBit).symm
  simp [pulseCount, pulseSteps, hne]

theorem pulseCount_setRs (rs : Bool) (hc : validConfig c = true) : pulseCount c (setRsSteps c rs) = 0 :=
  pulseCount_pw _ fun _ => enMask_and_rsMask hc

theorem pulseCount_poke (t : Timing) (v : Byte) (hc : validConfig c = true) : pulseCount c (pokeSteps c t v) = 1 := by
  have hload : pulseCount c [.pw c.dataPort (busMask c) v] = 0 :=
    pulseCount_pw v fun hp => (control_and_busMask hc hp (.inr rfl)).1
  have hcons : pokeSteps c t v = [.pw c.dataPort (busMask c) v] ++ pulseSteps c t := rfl
  rw [hcons, pulseCount_append, hload, pulseCount_pulse]

theorem pulseCount_data (t : Timing) (b : Byte) (hc : validConfig c = true) :
    pulseCount c (dataSteps c t b) = match c.busWidth with
      | .eightBit => 1
      | .fourBit => 2 := by
  unfold dataSteps
  cases c.busWidth with
  | eightBit => exact pulseCount_poke t b hc
  | fourBit => exact (pulseCount_append c _ _).trans (by rw [pulseCount_poke t _ hc, pulseCount_poke t _ hc])

end

/-- Settles O32: after SET_RS there are only loads and pulses, and of these only a pulse raises E. -/
theorem writeSetsRsFirstAndOnce : Obligations.WriteSetsRsFirstAndOnce := by
  intro c t b rs hc
  refine ⟨dataSteps c t b, writeSteps_eq_setRs_data c t b rs, avoidsRs_data t b hc, ?_⟩
  rw [writeSteps_eq_setRs_data, pulseCount_append, pulseCount_setRs rs hc, Nat.zero_add]
  exact pulseCount_data t b hc

end Sys2Proof.Machine
end

section
/-! SUPPORT. The proofs about INIT (41_init.md): its micro-steps and their counts, a failed allocation, what the ten
steps latch and leave, and the receiver's front end after them. -/

namespace Sys2Proof.Machine

/-! ### The ten steps (R141) -/

theorem fsv_eq_ite (w : BusWidth) : fsv w = if w = .eightBit then 0x38 else 0x28 := by cases w <;> rfl

theorem initStep5_eq_ite (c : SessionConfig) (t : Timing) :
    initStep5 c t = if c.busWidth = .fourBit then pokeSteps c t to4Pattern else [] := by
  unfold initStep5
  cases c.busWidth <;> rfl

/-- How many port writes INIT makes depends on the bus width only. -/
theorem portWriteCount_initSteps (c : SessionConfig) (t : Timing) :
    portWriteCount (initSteps c t) = if c.busWidth = .eightBit then 36 else 56 := by
  obtain ⟨dataPort, dataDdr, ctrlPort, ctrlDdr, rsBit, enBit, busWidth, fmt⟩ := c
  cases busWidth <;> rfl

section

variable {c : SessionConfig} (t : Timing)

theorem pulseCount_noWrite {m : MicroStep} (hm : ∀ h msk v, m ≠ .pw h msk v) : pulseCount c [m] = 0 := by
  simp [pulseCount, hm]

theorem pulseCount_dly (d : Duration) : pulseCount c [.dly d] = 0 := pulseCount_noWrite nofun

variable (hc : validConfig c = true)
include hc

theorem pulseCount_write (b : Byte) (rs : Bool) :
    pulseCount c (writeSteps c t b rs) = if c.busWidth = .eightBit then 1 else 2 := by
  obtain ⟨-, -, -, hcount⟩ := writeSetsRsFirstAndOnce c t b rs hc
  rw [hcount]
  cases c.busWidth <;> rfl

/-- No direction mask is the E bit alone. -/
theorem pulseCount_initStep2 : pulseCount c (initStep2 c) = 0 := by
  have hbus : busMask c ≠ enMask c := by
    have hne : ∀ i : BitVec 3, widthMask .fourBit ≠ bitMask i ∧ widthMask .eightBit ≠ bitMask i := by decide
    unfold busMask
    cases c.busWidth with
    | fourBit => exact (hne c.enBit).1
    | eightBit => exact (hne c.enBit).2
  have hctrl : rsMask c ||| enMask c ≠ enMask c := fun h => by
    simpa [BitVec.getLsbD_or, rsMask_rsBit, enMask_rsBit hc] using congrArg (·.getLsbD c.rsBit.toNat) h
  simp [pulseCount, initStep2, hbus, hctrl]

omit hc in
theorem pulseCount_initStep3 : pulseCount c (initStep3 c t) = 0 := by
  have hzero : 0#8 ≠ enMask c := (bitMask_ne_zero c.enBit).symm
  simp [pulseCount, initStep3, hzero]

theorem pulseCount_initSteps :
    pulseCount c (initSteps c t) = if c.busWidth = .eightBit then 7 else 12 := by
  have hcs : pulseCount c initStep1 = 0 ∧ pulseCount c initStep10 = 0 :=
    ⟨pulseCount_noWrite nofun, pulseCount_noWrite nofun⟩
  have hcw (reg : CacheReg) (v : Byte) : pulseCount c [.cw reg v] = 0 := pulseCount_noWrite nofun
  have hpoke (v : Byte) := pulseCount_poke t v hc
  have hstep5 : pulseCount c (initStep5 c t) = if c.busWidth = .eightBit then 0 else 1 := by
    unfold initStep5
    cases c.busWidth with
    | fourBit => exact hpoke to4Pattern
    | eightBit => rfl
  simp only [initSteps, initStep4, initStep6, initStep7, initStep8, initStep9, pulseCount_append, hcs, hcw, hpoke,
    hstep5, pulseCount_dly, pulseCount_initStep2 hc, pulseCount_initStep3 t, pulseCount_write t hc]
  cases c.busWidth <;> rfl

end

/-- Settles O36: the ten steps written out, the writes counted for each width, the pulses step by step. -/
theorem initMicroStepsAreTheTenSteps : Obligations.InitMicroStepsAreTheTenSteps := by
  intro c t
  refine ⟨?_, portWriteCount_initSteps c t, fun hc => pulseCount_initSteps t hc⟩
  simp only [initSteps, initStep1, initStep2, initStep3, initStep4, initStep5_eq_ite, initStep6, initStep7, initStep8,
    initStep9, initStep10, fsv_eq_ite, List.append_assoc, List.cons_append, List.nil_append]
  rfl

/-! ### A failed allocation (R144) -/

/-- On an invalid session a well-formed host operation other than INIT does nothing (60_exceptions.md R202). -/
theorem exec_invalidSession {i : Instr} {s : State} (hk : i.kind = .hostOp) (hwf : WellFormed i = true)
    (hinit : ∀ c a, i ≠ .init c a) (hs : s.seq = .idle) (hinvalid : s.sessions[s.cur]? = some .invalid) :
    exec i s = .next s := by
  obtain hop | ⟨x, -, hill⟩ := meaning_cases (i := i) (by rw [hk]; decide) hinit
  · obtain ⟨k, hexec, -⟩ := hop s
    rw [hexec, onSession_invalid k hs hinvalid]
  · rw [hill hk] at hwf
    cases hwf

/-- The session just added is the current one. -/
theorem addSession_current (s : State) (x : Session) : (addSession s x).sessions[(addSession s x).cur]? = some x :=
  List.getElem?_concat_length

/-- Settles O39: the failed INIT adds the invalid session and no micro-step, and the wrapper of the operations does
nothing on it. -/
theorem failedInitReturnsAnInvalidHandle : Obligations.FailedInitReturnsAnInvalidHandle := by
  intro s c hs
  exact ⟨addSession s .invalid, execInit_failed c hs, rfl,
    fun i hk hwf hinit => exec_invalidSession hk hwf hinit hs (addSession_current s .invalid)⟩

/-! ### The inside of INIT's critical section -/

/-- Steps 3 to 9, which write the two ports and the caches (R133-R139). -/
def initDataSteps (c : SessionConfig) (t : Timing) : List MicroStep :=
  initStep3 c t ++ (initStep4 c t ++ (initStep5 c t ++ (initStep6 c t ++ (initStep7 c t ++ (initStep8 c t ++
    initStep9 c t)))))

/-- Steps 2 to 9 (R132-R139). -/
def initBody (c : SessionConfig) (t : Timing) : List MicroStep := initStep2 c ++ initDataSteps c t

theorem initSteps_eq_bracketed (c : SessionConfig) (t : Timing) : initSteps c t = bracketed (initBody c t) := by
  simp only [initSteps, bracketed, initBody, initDataSteps, initStep1, initStep10, List.append_assoc, List.cons_append,
    List.nil_append]

theorem inside_initBody (c : SessionConfig) (t : Timing) : Inside c (initBody c t) := by
  obtain ⟨mid, hmid, hsteps⟩ := initSteps_bracketed c t
  have hbody : initBody c t = mid := by
    rw [initSteps_eq_bracketed] at hsteps
    exact List.append_cancel_right (List.cons.inj hsteps).2
  rwa [hbody]

/-- The state in which INIT has constructed its session and entered its critical section. -/
def initEntered (c : SessionConfig) (s : State) : State :=
  perform .cse (addSession s (.valid (newSession c s.sessions.length s.trace.length)))

theorem initEntered_live (c : SessionConfig) (s : State) :
    (initEntered c s).live = some (newSession c s.sessions.length s.trace.length) :=
  State.live_eq_some.2 (addSession_current s _)

/-- The sessions constructed before are still there. -/
theorem initEntered_other {s : State} {k : Nat} (c : SessionConfig) (hk : k < s.sessions.length) :
    (initEntered c s).sessions[k]? = s.sessions[k]? := List.getElem?_append_left hk

/-- The state in which an accepted INIT returns. -/
theorem complete_initStarted (c : SessionConfig) (s : State) :
    (initStarted c s).complete =
      (perform .csr (performAll (initBody c s.timing) (initEntered c s))).withSeq .idle := by
  rw [initStarted, initSteps_eq_bracketed]
  exact complete_bracketed _ _

/-! ### The transfers of INIT (R145) -/

section

variable {c : SessionConfig} {n : Nat} (t : Timing)

/-- A direction register is no port of the session (10_state.md R21, R23; log 29). -/
theorem directions_apart (hc : validConfig c = true) (hd : c.dataDdr ≠ c.dataPort) :
    (c.dataDdr ≠ c.dataPort ∧ c.dataDdr ≠ c.ctrlPort) ∧ c.ctrlDdr ≠ c.dataPort ∧ c.ctrlDdr ≠ c.ctrlPort := by
  obtain ⟨-, -, hshared, hnodup⟩ := (validConfig_iff c).1 hc
  by_cases hp : c.dataPort = c.ctrlPort
  · rw [← hp, ← hshared.1 hp]
    exact ⟨⟨hd, hd⟩, hd, hd⟩
  · have hdistinct := hnodup hp
    simp only [List.nodup_cons, List.mem_cons, List.not_mem_nil, or_false, not_or] at hdistinct
    tauto

/-- A write of a register that is none of the session's ports leaves its lines. -/
theorem drives_otherPort {h : Handle} (m v : Byte) (l : Lines) (hh : h ≠ c.dataPort ∧ h ≠ c.ctrlPort) :
    Drives c n [.pw h m v] l [] l := by
  refine drives_portWrite (fun s hl => ?_) fun ⟨hhigh, hlow⟩ => Bool.noConfusion (hhigh.symm.trans hlow)
  rw [← hl, linesOf, enableLine, rsLine, portWrite_other m v hh.1.symm, portWrite_other m v hh.2.symm]
  rfl

variable (hc : validConfig c = true)
include hc

theorem drives_initStep2 (hd : c.dataDdr ≠ c.dataPort) (l : Lines) :
    Drives c n (initStep2 c) l [] l := by
  obtain ⟨hdata, hctrl⟩ := directions_apart hc hd
  exact drives_append (drives_otherPort _ _ l hdata) (drives_otherPort _ _ l hctrl)

theorem drives_initStep3 (l : Lines) :
    Drives c n (initStep3 c t) l [] ⟨l.enable, false, 0 &&& busMask c⟩ :=
  drives_append (drives_load hc l 0) (drives_append (drives_setRs hc _ false) (drives_dly _ _))

/-- The three SYNC pokes; from E high the first one counts twice. -/
theorem drives_initStep4 (e : Bool) (d : Byte) :
    Drives c n (initStep4 c t) ⟨e, false, d⟩
      (fromLevel e (List.replicate 3 (pokeTransfer n c.busWidth false syncPattern)))
      ⟨false, false, syncPattern &&& busMask c⟩ := by
  have h := drives_append (drives_append (drives_append (drives_append (drives_poke hc (n := n) t ⟨e, false, d⟩
    syncPattern) (drives_dly _ (.ms t.tInit1))) (drives_poke hc t _ syncPattern)) (drives_dly _ (.us t.tInit2)))
    (drives_poke hc t _ syncPattern)
  cases e <;> exact h

theorem drives_initStep5 (d : Byte) :
    ∃ d', Drives c n (initStep5 c t) ⟨false, false, d⟩
      (if c.busWidth = .fourBit then [pokeTransfer n c.busWidth false to4Pattern] else []) ⟨false, false, d'⟩ := by
  rw [initStep5_eq_ite]
  split
  · exact ⟨_, drives_poke hc t _ to4Pattern⟩
  · exact ⟨d, fun s _ _ hl => ⟨(List.append_nil _).symm, hl⟩⟩

/-- A WRITE to the instruction register from E low, and one micro-step that writes no port. -/
theorem drives_instruction {m : MicroStep} (b d : Byte) (hm : ∀ h msk v, m ≠ .pw h msk v) :
    Drives c n (writeSteps c t b false ++ [m]) ⟨false, false, d⟩ (wordTransfers n c.busWidth false b)
      ⟨false, false, lastLoad c.busWidth b &&& busMask c⟩ := by
  have h := drives_append (drives_write hc (n := n) t ⟨false, false, d⟩ b false) (drives_noWrite _ hm)
  rwa [List.append_nil] at h

/-- INIT latches the transfers of R145, from E high the first one twice, and leaves the lines of its last WRITE. -/
theorem drives_initBody (hd : c.dataDdr ≠ c.dataPort) (l : Lines) :
    Drives c n (initBody c t) l (fromLevel l.enable (initTransfers n c.busWidth))
      ⟨false, false, lastLoad c.busWidth initEM &&& busMask c⟩ := by
  obtain ⟨d', hstep5⟩ := drives_initStep5 t hc (n := n) (syncPattern &&& busMask c)
  have h := drives_append (drives_initStep2 hc hd l) <| drives_append (drives_initStep3 t hc l) <|
    drives_append (drives_initStep4 t hc _ _) <| drives_append hstep5 <|
    drives_append (drives_instruction t hc (fsv c.busWidth) _ (m := .cw .fs (fsv c.busWidth)) nofun) <|
    drives_append (drives_instruction t hc initDC _ (m := .cw .dc initDC) nofun) <|
    drives_append (drives_instruction t hc codeClear _ (m := .dly (.ms t.tLong)) nofun)
      (drives_instruction t hc initEM _ (m := .cw .em initEM) nofun)
  have hlisted (w : BusWidth) (e : Bool) :
      fromLevel e (initTransfers n w) =
        fromLevel e (List.replicate 3 (pokeTransfer n w false syncPattern)) ++
        ((if w = .fourBit then [pokeTransfer n w false to4Pattern] else []) ++
        (wordTransfers n w false (fsv w) ++ (wordTransfers n w false initDC ++
        (wordTransfers n w false codeClear ++ wordTransfers n w false initEM)))) := by
    cases w <;> cases e <;> rfl
  rw [hlisted]
  exact h

end

/-- What INIT's critical section latches and leaves, from the state in which it is entered. -/
theorem initBody_performed {c : SessionConfig} (s : State) (hc : validConfig c = true)
    (hd : c.dataDdr ≠ c.dataPort) :
    (performAll (initBody c s.timing) (initEntered c s)).latched =
        s.latched ++ fromLevel (enableLine s c) (initTransfers s.sessions.length c.busWidth) ∧
      linesOf (performAll (initBody c s.timing) (initEntered c s)) c =
        ⟨false, false, lastLoad c.busWidth initEM &&& busMask c⟩ :=
  drives_initBody s.timing hc hd (linesOf s c) (initEntered c s) ⟨_, initEntered_live c s, rfl⟩ rfl rfl

/-- Settles O38: the lines under the ten steps, in the state in which INIT returns. -/
theorem initLatchesTheListedTransfers : Obligations.InitLatchesTheListedTransfers := by
  intro s c hs hc ht hd
  refine ⟨initStarted c s, execInit_accepted hs hc ht, ?_⟩
  obtain ⟨hlatched, -⟩ := initBody_performed s hc hd
  rw [complete_initStarted, ← hlatched]
  rfl

/-! ### The receiver's front end (R146) -/

theorem FrontEnd.take_eightBit (phase : NibblePhase) (held n : Nibble) :
    FrontEnd.take ⟨.eightBit, phase, held⟩ n = FrontEnd.instruction ⟨.eightBit, phase, held⟩ n := rfl

theorem FrontEnd.take_high (held n : Nibble) : FrontEnd.take ⟨.fourBit, .high, held⟩ n = ⟨.fourBit, .low, n⟩ := rfl

theorem FrontEnd.take_low (held n : Nibble) :
    FrontEnd.take ⟨.fourBit, .low, held⟩ n = FrontEnd.instruction ⟨.fourBit, .low, held⟩ held := rfl

/-- After an instruction no nibble is pending. -/
theorem FrontEnd.instruction_high (f : FrontEnd) (upper : Nibble) :
    ∃ w, f.instruction upper = ⟨w, .high, f.held⟩ := by
  unfold FrontEnd.instruction
  split
  · exact ⟨_, rfl⟩
  · split
    · exact ⟨_, rfl⟩
    · exact ⟨_, rfl⟩

/-- Three SYNC transfers bring every front end to eight bits with no nibble pending: one may end a pending byte, and
two are a function set of either width. -/
theorem FrontEnd.take_sync_thrice (f : FrontEnd) :
    ∃ held, ((f.take 0x3).take 0x3).take 0x3 = ⟨.eightBit, .high, held⟩ := by
  obtain ⟨width, phase, held⟩ := f
  cases width with
  | eightBit => exact ⟨held, rfl⟩
  | fourBit =>
    cases phase with
    | high => exact ⟨0x3, rfl⟩
    | low =>
      obtain ⟨w, hw⟩ := FrontEnd.instruction_high ⟨.fourBit, .low, held⟩ held
      rw [take_low, hw]
      cases w with
      | eightBit => exact ⟨held, rfl⟩
      | fourBit => exact ⟨0x3, rfl⟩

/-- The listed transfers of INIT synchronise every front end. -/
theorem FrontEnd.takeAll_initTransfers (f : FrontEnd) (n : Nat) (w : BusWidth) :
    (f.takeAll (initTransfers n w)).width = w ∧ (f.takeAll (initTransfers n w)).phase = .high := by
  obtain ⟨held, hsync⟩ := f.take_sync_thrice
  have hsplit : f.takeAll (initTransfers n w) =
      (((f.take 0x3).take 0x3).take 0x3).takeAll ((initTransfers n w).drop 3) := by cases w <;> rfl
  rw [hsplit, hsync]
  cases w <;>
    simp [takeAll, initTransfers, DataLines.upper, take_eightBit, take_high, take_low, FrontEnd.instruction]

/-- Settles O41: with E high before, the extra transfer leaves one more front end from which the listed transfers
start. -/
theorem initSynchronisesTheFrontEnd : Obligations.InitSynchronisesTheFrontEnd := by
  intro s t c f hs hc ht hd hexec
  obtain ⟨t', hexec', hlatched⟩ := initLatchesTheListedTransfers s c hs hc ht hd
  cases hexec.symm.trans hexec'
  rw [hlatched, List.drop_left]
  cases enableLine s c with
  | false => exact f.takeAll_initTransfers _ _
  | true =>
    have hextra : f.takeAll (fromLevel true (initTransfers s.sessions.length c.busWidth)) =
        (f.take 0x3).takeAll (initTransfers s.sessions.length c.busWidth) := by
      cases c.busWidth <;> rfl
    rw [hextra]
    exact (f.take 0x3).takeAll_initTransfers _ _

/-! ### What a list of micro-steps leaves -/

theorem perform_tok {m : MicroStep} (s : State) (hm : m ≠ .cse) : (perform m s).tok = s.tok := by
  cases m with
  | pw h m v => exact portWrite_tok h m v s
  | dly | csr => rfl
  | cse => exact absurd rfl hm
  | cw reg v =>
    show (cacheWrite reg v s).tok = s.tok
    unfold cacheWrite
    cases s.live <;> rfl

theorem performAll_tok {ms : List MicroStep} (s : State) (hms : MicroStep.cse ∉ ms) :
    (performAll ms s).tok = s.tok := by
  induction ms generalizing s with
  | nil => rfl
  | cons m ms ih =>
    obtain ⟨hm, hms⟩ := List.ne_and_not_mem_of_not_mem_cons hms
    exact (ih (perform m s) hms).trans (perform_tok s hm.symm)

/-- Micro-steps that their session may make change no bit outside the owned ones (10_state.md R33). -/
theorem performAll_outside_owned {c : SessionConfig} {ms : List MicroStep} (s : State) (a : Handle)
    (hms : ∀ m ∈ ms, StepOk c m) :
    (performAll ms s).port a &&& ~~~ownedMask c a = s.port a &&& ~~~ownedMask c a := by
  induction ms generalizing s with
  | nil => rfl
  | cons m ms ih =>
    obtain ⟨hm, hms⟩ := List.forall_mem_cons.1 hms
    exact (ih (perform m s) hms).trans (perform_outside_owned s a hm)

/-- The list names this register in none of its writes. -/
def LeavesPort (a : Handle) (ms : List MicroStep) : Prop := ∀ h m v, MicroStep.pw h m v ∈ ms → a ≠ h

theorem performAll_port_kept {a : Handle} {ms : List MicroStep} (s : State) (hms : LeavesPort a ms) :
    (performAll ms s).port a = s.port a := by
  induction ms generalizing s with
  | nil => rfl
  | cons m ms ih =>
    refine (ih (perform m s) fun h k v hk => hms h k v (List.mem_cons_of_mem m hk)).trans ?_
    cases m with
    | pw h k v => exact portWrite_other k v (hms h k v List.mem_cons_self)
    | dly | cse | csr | cw => exact perform_port s a nofun

theorem leavesPort_append {a : Handle} {ms ns : List MicroStep} (hm : LeavesPort a ms) (hn : LeavesPort a ns) :
    LeavesPort a (ms ++ ns) :=
  fun h m v hmem => (List.mem_append.1 hmem).elim (hm h m v) (hn h m v)

theorem leavesPort_noWrite {a : Handle} {m : MicroStep} (hm : ∀ h msk v, m ≠ .pw h msk v) : LeavesPort a [m] :=
  fun h msk v hmem => absurd (List.mem_singleton.1 hmem).symm (hm h msk v)

theorem leavesPort_transfer {c : SessionConfig} {a : Handle} {ms : List MicroStep}
    (ha : a ≠ c.dataPort ∧ a ≠ c.ctrlPort) (hms : ∀ m ∈ ms, TransferStep c m) : LeavesPort a ms := by
  rintro h m v hmem rfl
  obtain ⟨hport, -⟩ := hms _ hmem
  exact hport.elim ha.1 ha.2

/-- The registers that a list of micro-steps of their own session leaves, the receiver's state apart. -/
def cachedByAll (ms : List MicroStep) (r : SessionRegs) : SessionRegs := ms.foldl (fun r' m => cachedBy m r') r

theorem cachedByAll_append (ms ns : List MicroStep) (r : SessionRegs) :
    cachedByAll (ms ++ ns) r = cachedByAll ns (cachedByAll ms r) := List.foldl_append

theorem cachedBy_withRx (m : MicroStep) (r : SessionRegs) (rx : Receiver) :
    cachedBy m { r with rx := rx } = { cachedBy m r with rx := rx } := by
  cases m with
  | cw reg v => cases reg <;> rfl
  | pw | dly | cse | csr => rfl

/-- The current valid session after a list of micro-steps. -/
theorem performAll_current_live {s : State} {r : SessionRegs} (ms : List MicroStep) (hs : s.live = some r) :
    ∃ rx, (performAll ms s).live = some { cachedByAll ms r with rx := rx } := by
  induction ms using List.reverseRecOn with
  | nil => exact ⟨r.rx, hs⟩
  | append_singleton ms m ih =>
    obtain ⟨rx, hl⟩ := ih
    obtain ⟨rx', hl'⟩ := perform_current_live m hl
    rw [cachedBy_withRx] at hl'
    rw [performAll_append, cachedByAll_append]
    exact ⟨rx', hl'⟩

theorem cachedByAll_transfer {c : SessionConfig} {ms : List MicroStep} (r : SessionRegs)
    (hms : ∀ m ∈ ms, TransferStep c m) : cachedByAll ms r = r := by
  induction ms with
  | nil => rfl
  | cons m ms ih =>
    obtain ⟨hm, hrest⟩ := List.forall_mem_cons.1 hms
    cases m with
    | pw | dly => exact ih hrest
    | cse | csr | cw => exact hm.elim

/-! ### What INIT leaves (R143) -/

section

variable (c : SessionConfig) (t : Timing)

theorem transferSteps_initStep3 : ∀ m ∈ initStep3 c t, TransferStep c m := by
  simp [initStep3, TransferStep, owned_bus, owned_rs]

theorem transferSteps_initStep4 : ∀ m ∈ initStep4 c t, TransferStep c m := by
  have hpoke := transferSteps_poke c t syncPattern
  simp only [initStep4, List.forall_mem_append]
  exact ⟨⟨⟨⟨hpoke, transferSteps_dly c _⟩, hpoke⟩, transferSteps_dly c _⟩, hpoke⟩

theorem transferSteps_initStep5 : ∀ m ∈ initStep5 c t, TransferStep c m := by
  unfold initStep5
  cases c.busWidth with
  | fourBit => exact transferSteps_poke c t to4Pattern
  | eightBit => exact nofun

/-- Steps 3 to 9 write the two ports only. -/
theorem leavesPort_initDataSteps {a : Handle} (ha : a ≠ c.dataPort ∧ a ≠ c.ctrlPort) :
    LeavesPort a (initDataSteps c t) := by
  have hinstruction {m : MicroStep} (b : Byte) (hm : ∀ h msk v, m ≠ .pw h msk v) :
      LeavesPort a (writeSteps c t b false ++ [m]) :=
    leavesPort_append (leavesPort_transfer ha (transferSteps_write c t b false)) (leavesPort_noWrite hm)
  exact leavesPort_append (leavesPort_transfer ha (transferSteps_initStep3 c t)) <|
    leavesPort_append (leavesPort_transfer ha (transferSteps_initStep4 c t)) <|
    leavesPort_append (leavesPort_transfer ha (transferSteps_initStep5 c t)) <|
    leavesPort_append (hinstruction _ nofun) <| leavesPort_append (hinstruction _ nofun) <|
    leavesPort_append (hinstruction _ nofun) (hinstruction _ nofun)

/-- INIT writes the three caches (R136, R137, R139). -/
theorem cachedByAll_initBody (r : SessionRegs) :
    cachedByAll (initBody c t) r =
      { r with dc := some initDC, em := some initEM, fs := some (fsv c.busWidth) } := by
  have hwrite (b : Byte) (r : SessionRegs) : cachedByAll (writeSteps c t b false) r = r :=
    cachedByAll_transfer r (transferSteps_write c t b false)
  simp only [initBody, initDataSteps, initStep6, initStep7, initStep8, initStep9, cachedByAll_append, hwrite,
    cachedByAll_transfer _ (transferSteps_initStep3 c t), cachedByAll_transfer _ (transferSteps_initStep4 c t),
    cachedByAll_transfer _ (transferSteps_initStep5 c t)]
  rfl

end

/-- A masked update of ones sets all bits of its mask. -/
theorem portWrite_ones (h : Handle) (m : Byte) (s : State) : (portWrite h m m s).port h &&& m = m := by
  apply BitVec.eq_of_getLsbD_eq
  intro i _
  rw [portWrite_same, BitVec.getLsbD_and, masked_bit]
  cases m.getLsbD i <;> simp

/-- Step 2 sets the session's direction bits (R132), on a shared direction register as well. -/
theorem initStep2_directions {c : SessionConfig} (s : State) (hc : validConfig c = true) :
    (performAll (initStep2 c) s).port c.dataDdr &&& busMask c = busMask c ∧
      (performAll (initStep2 c) s).port c.ctrlDdr &&& (rsMask c ||| enMask c) = rsMask c ||| enMask c := by
  obtain ⟨-, -, hshared, -⟩ := (validConfig_iff c).1 hc
  refine ⟨?_, portWrite_ones _ _ _⟩
  have hkept := portWrite_bits_kept (h := c.ctrlDdr) (a := c.dataDdr) (rsMask c ||| enMask c)
    (perform (.pw c.dataDdr (busMask c) (busMask c)) s) fun h => validConfig_shared hc (hshared.2 h)
  exact hkept.trans (portWrite_ones _ _ _)

theorem initBody_directions {c : SessionConfig} (t : Timing) (s : State) (hc : validConfig c = true)
    (hd : c.dataDdr ≠ c.dataPort) :
    (performAll (initBody c t) s).port c.dataDdr &&& busMask c = busMask c ∧
      (performAll (initBody c t) s).port c.ctrlDdr &&& (rsMask c ||| enMask c) = rsMask c ||| enMask c := by
  obtain ⟨hdata, hctrl⟩ := directions_apart hc hd
  rw [initBody, performAll_append, performAll_port_kept _ (leavesPort_initDataSteps c t hdata),
    performAll_port_kept _ (leavesPort_initDataSteps c t hctrl)]
  exact initStep2_directions s hc

theorem lastLoad_initEM (w : BusWidth) :
    lastLoad w initEM &&& widthMask w = if w = .eightBit then 0x06 else 0x60 := by cases w <;> rfl

/-- Settles O37: the lines, the caches, the directions and the frame of the ten steps, each by its own lemma. -/
theorem initReturnsInTheKnownState : Obligations.InitReturnsInTheKnownState := by
  intro s c hs hc ht hd
  refine ⟨initStarted c s, _, execInit_accepted hs hc ht, rfl, ?_⟩
  rw [complete_initStarted, ← fsv_eq_ite, ← lastLoad_initEM]
  obtain ⟨hsteps, hcse, -⟩ := inside_initBody c s.timing
  obtain ⟨-, hcur, htiming, hinput⟩ := performAll_fixed (initBody c s.timing) (initEntered c s)
  obtain ⟨rx, hlive⟩ := performAll_current_live (initBody c s.timing) (initEntered_live c s)
  obtain ⟨-, hlines⟩ := initBody_performed s hc hd
  obtain ⟨hdataDdr, hctrlDdr⟩ := initBody_directions s.timing (initEntered c s) hc hd
  have htok := performAll_tok (initEntered c s) hcse
  have howned (h : Handle) := performAll_outside_owned (initEntered c s) h hsteps
  have hother (k : Nat) (hk : k < s.sessions.length) :
      OtherKept c s.sessions[k]? (performAll (initBody c s.timing) (initEntered c s)).sessions[k]? := by
    rw [← initEntered_other c hk]
    exact performAll_otherKept hsteps (Nat.ne_of_lt hk)
  rw [cachedByAll_initBody] at hlive
  generalize performAll (initBody c s.timing) (initEntered c s) = u at *
  exact ⟨rfl, hcur, ⟨rx, hlive⟩, htok, htok, congrArg Lines.enable hlines, congrArg Lines.rs hlines,
    congrArg Lines.data hlines, hdataDdr, hctrlDdr, howned, hother, htiming, hinput⟩

end Sys2Proof.Machine
end

section
/-! SUPPORT. The proofs about the command surface (42_commands.md): instructions of one byte, toggles, text. -/

namespace Sys2Proof.Machine

/-! ### Clear, home, cursor placement, scrolls, one character -/

/-- Settles O42: each is one WRITE of its code and the long wait. -/
theorem clearAndHomeSendOneByteAndWait : Obligations.ClearAndHomeSendOneByteAndWait :=
  ⟨sendsOne_of_startPublic (fun _ => rfl) fun _ => .inr ⟨_, rfl⟩,
    sendsOne_of_startPublic (fun _ => rfl) fun _ => .inr ⟨_, rfl⟩⟩

/-- Settles O43: the table is the definition of the row base. -/
theorem rowBasesAreFixed : Obligations.RowBasesAreFixed := fun _ => rfl

/-- The cursor address is the sum of row base and column modulo 256 (R164). -/
theorem cursorAddress_eq_ofNat (row col : Byte) :
    cursorAddress row col = BitVec.ofNat 8 (((rowBase row).toNat + col.toNat) % 256) := by
  apply BitVec.eq_of_toNat_eq
  rw [cursorAddress, BitVec.toNat_add, BitVec.toNat_ofNat, Nat.mod_mod]

/-- Settles O44: one WRITE of the cursor byte, whose address is the sum modulo 256. -/
theorem setCursorSendsTheAddress : Obligations.SetCursorSendsTheAddress := by
  intro row col
  rw [← cursorAddress_eq_ofNat]
  exact sendsOne_of_startPublic_write fun _ => rfl

/-- Settles O49: each is one WRITE of its byte. -/
theorem scrollsSendTheirShift : Obligations.ScrollsSendTheirShift :=
  ⟨sendsOne_of_startPublic_write fun _ => rfl, sendsOne_of_startPublic_write fun _ => rfl⟩

/-- Settles O50: one WRITE to the data register, whatever the byte. -/
theorem printCharSendsAnyByte : Obligations.PrintCharSendsAnyByte :=
  fun _ => sendsOne_of_startPublic_write fun _ => rfl

/-! ### Toggles (R181) -/

section

variable {i : Instr} {s : State} {r : SessionRegs} {old : Byte} (flag : Byte) (set : Bool)

/-- A toggle of a cache register that holds a value sends the new byte and caches it. -/
theorem startToggle_ready {reg : CacheReg} (hr : Ready s r) (hreg : cacheOf r reg = some old) :
    startToggle s reg flag set =
      .next (s.withSeq (.busy (bracketed (cachedBody reg (toggled old flag set) r.cfg s.timing)))) := by
  rw [startToggle, onSession_ready _ hr.1 hr.2, hreg]
  rfl

variable {flag set}

theorem togglesDC_of_startToggle (hexec : ∀ s, exec i s = startToggle s .dc flag set) : TogglesDC i flag set := by
  refine ⟨fun s r old new hr hdc hnew => ?_, fun s hi hinv => (hexec s).trans (onSession_invalid _ hi hinv)⟩
  subst hnew
  exact completes_writeCached .dc _ hr ((hexec s).trans (startToggle_ready flag set hr hdc))

theorem togglesEM_of_startToggle (hexec : ∀ s, exec i s = startToggle s .em flag set) : TogglesEM i flag set := by
  refine ⟨fun s r old new hr hem hnew => ?_, fun s hi hinv => (hexec s).trans (onSession_invalid _ hi hinv)⟩
  subst hnew
  exact completes_writeCached .em _ hr ((hexec s).trans (startToggle_ready flag set hr hem))

end

/-- Settles O45: each is a toggle of `DC`. -/
theorem displayTogglesSendAndCacheDC : Obligations.DisplayTogglesSendAndCacheDC :=
  ⟨togglesDC_of_startToggle fun _ => rfl, togglesDC_of_startToggle fun _ => rfl,
    togglesDC_of_startToggle fun _ => rfl, togglesDC_of_startToggle fun _ => rfl,
    togglesDC_of_startToggle fun _ => rfl, togglesDC_of_startToggle fun _ => rfl⟩

/-- Settles O46: each is a toggle of `EM`. -/
theorem entryTogglesSendAndCacheEM : Obligations.EntryTogglesSendAndCacheEM :=
  ⟨togglesEM_of_startToggle fun _ => rfl, togglesEM_of_startToggle fun _ => rfl,
    togglesEM_of_startToggle fun _ => rfl, togglesEM_of_startToggle fun _ => rfl⟩

/-! ### Two toggles (R184) -/

/-- A toggle sets the bits of its flag and leaves the others. -/
theorem toggled_bit (old flag : Byte) (set : Bool) {i : Nat} (hi : i < 8) :
    (toggled old flag set).getLsbD i = if flag.getLsbD i then set else old.getLsbD i := by
  cases set with
  | false =>
    rw [toggled, if_neg Bool.false_ne_true, BitVec.getLsbD_and, BitVec.getLsbD_not, decide_eq_true hi]
    cases flag.getLsbD i <;> simp
  | true =>
    rw [toggled, if_pos rfl, BitVec.getLsbD_or]
    cases flag.getLsbD i <;> simp

/-- Toggles of flags without a common bit commute. -/
theorem toggled_comm {f g : Byte} (old : Byte) (a b : Bool) (hfg : f &&& g = 0) :
    toggled (toggled old f a) g b = toggled (toggled old g b) f a := by
  apply BitVec.eq_of_getLsbD_eq
  intro i hi
  have hbit : (f.getLsbD i && g.getLsbD i) = false := by
    rw [← BitVec.getLsbD_and, hfg]
    exact BitVec.getLsbD_zero
  simp only [toggled_bit _ _ _ hi]
  cases hf : f.getLsbD i with
  | false => rfl
  | true =>
    rw [hf, Bool.true_and] at hbit
    rw [hbit]
    rfl

/-- A body with the steps of one transaction around it writes the same caches. -/
theorem cachedByAll_bracketed (body : List MicroStep) (r : SessionRegs) :
    cachedByAll (bracketed body) r = cachedByAll body r := by
  have hcse : cachedByAll (bracketed body) r = cachedByAll (body ++ [.csr]) r := rfl
  rw [hcse, cachedByAll_append]
  rfl

/-- A byte sent and then cached writes that one cache. -/
theorem cachedByAll_cachedBody (reg : CacheReg) (b : Byte) (c : SessionConfig) (t : Timing) (r : SessionRegs) :
    cachedByAll (cachedBody reg b c t) r = setCache r reg b := by
  rw [cachedBody, cachedByAll_append, cachedByAll_transfer r (transferSteps_write c t b false)]
  rfl

/-- A toggle run to its return leaves a ready session with the new byte in its cache register. -/
theorem startToggle_returns {s : State} {r : SessionRegs} {reg : CacheReg} {old : Byte} (flag : Byte) (set : Bool)
    (hr : Ready s r) (hreg : cacheOf r reg = some old) :
    ∃ t rx, startToggle s reg flag set = .next t ∧
      Ready t.complete { setCache r reg (toggled old flag set) with rx := rx } := by
  have hstart := startToggle_ready flag set hr hreg
  obtain ⟨-, hl⟩ := hr
  obtain ⟨rx, hlive⟩ := performAll_current_live
    (s := s.withSeq (.busy (bracketed (cachedBody reg (toggled old flag set) r.cfg s.timing))))
    (bracketed (cachedBody reg (toggled old flag set) r.cfg s.timing)) hl
  rw [cachedByAll_bracketed, cachedByAll_cachedBody] at hlive
  exact ⟨_, rx, hstart, rfl, hlive⟩

/-- Two toggles of `DC`, each run to its return, leave a session that differs in `DC` and the receiver only. -/
theorem startToggle_twice {s : State} {r : SessionRegs} {old : Byte} (f g : Byte) (a b : Bool) (hr : Ready s r)
    (hdc : r.dc = some old) :
    ∃ t₁ t₂ rx, startToggle s .dc f a = .next t₁ ∧ startToggle t₁.complete .dc g b = .next t₂ ∧
      t₂.complete.live = some { r with dc := some (toggled (toggled old f a) g b), rx := rx } := by
  obtain ⟨t₁, rx₁, h₁, hr₁⟩ := startToggle_returns (reg := .dc) f a hr hdc
  obtain ⟨t₂, rx₂, h₂, -, hlive⟩ := startToggle_returns (reg := .dc) g b hr₁ rfl
  exact ⟨t₁, t₂, rx₂, h₁, h₂, hlive⟩

/-- Settles O47: the two toggles run in either order, and the byte they compute is the same. -/
theorem displayTogglesCommute : Obligations.DisplayTogglesCommute := by
  intro s r old f g a b hr hdc hfg
  obtain ⟨t₁, t₂, rx₁, ht₁, ht₂, htlive⟩ := startToggle_twice f g a b hr hdc
  obtain ⟨u₁, u₂, rx₂, hu₁, hu₂, hulive⟩ := startToggle_twice g f b a hr hdc
  rw [← toggled_comm old a b hfg] at hulive
  exact ⟨t₁, t₂, u₁, u₂, _, rx₁, rx₂, ht₁, ht₂, hu₁, hu₂, htlive, hulive⟩

/-! ### Text (R178-R180) -/

theorem wordTransfers_ne_nil (n : Nat) (w : BusWidth) (rs : Bool) (b : Byte) : wordTransfers n w rs b ≠ [] := by
  cases w <;> exact List.cons_ne_nil _ _

/-- Only the first transfer depends on the level of E on entry. -/
theorem fromLevel_append {ts : List Transfer} (e : Bool) (us : List Transfer) (hts : ts ≠ []) :
    fromLevel e (ts ++ us) = fromLevel e ts ++ us := by
  obtain ⟨x, xs, rfl⟩ := List.exists_cons_of_ne_nil hts
  cases e <;> rfl

/-- A text latches the transfers of its bytes in order: its first WRITE leaves E low for the next one. -/
theorem drives_text {c : SessionConfig} {n : Nat} (hc : validConfig c = true) (t : Timing) (bs : List Byte)
    (l : Lines) :
    ∃ l', Drives c n (textSteps c t bs) l (fromLevel l.enable (textTransfers n c.busWidth bs)) l' ∧
      ((bs = [] ∧ l' = l) ∨ l'.enable = false) := by
  induction bs generalizing l with
  | nil =>
    have hnone : fromLevel l.enable (textTransfers n c.busWidth []) = [] := by cases l.enable <;> rfl
    rw [hnone]
    exact ⟨l, fun s _ _ hl => ⟨(List.append_nil _).symm, hl⟩, .inl ⟨rfl, rfl⟩⟩
  | cons b bs ih =>
    have hwrite := drives_write hc (n := n) t l b true
    obtain ⟨l', hrest, hlow⟩ := ih ⟨false, true, lastLoad c.busWidth b &&& busMask c⟩
    have hsplit : fromLevel l.enable (textTransfers n c.busWidth (b :: bs)) =
        fromLevel l.enable (wordTransfers n c.busWidth true b) ++ textTransfers n c.busWidth bs :=
      fromLevel_append _ _ (wordTransfers_ne_nil _ _ _ _)
    rw [hsplit]
    refine ⟨l', drives_append hwrite hrest, .inr ?_⟩
    obtain ⟨-, rfl⟩ | hlow := hlow
    · rfl
    · exact hlow

theorem sends_text {c : SessionConfig} (n : Nat) (t : Timing) (bs : List Byte) (hc : validConfig c = true) :
    Sends c n (textSteps c t bs) (textTransfers n c.busWidth bs) := by
  intro l
  obtain ⟨l', hdrives, ⟨rfl, -⟩ | hlow⟩ := drives_text hc t bs l
  · exact ⟨l', hdrives, fun hne => absurd rfl hne⟩
  · exact ⟨l', hdrives, fun _ => hlow⟩

theorem transferSteps_text (c : SessionConfig) (t : Timing) (bs : List Byte) :
    ∀ m ∈ textSteps c t bs, TransferStep c m := by
  induction bs with
  | nil => exact nofun
  | cons b bs ih => exact List.forall_mem_append.2 ⟨transferSteps_write c t b true, ih⟩

/-- A public operation that writes a text (R178). -/
theorem sendsText_of_startPublic {i : Instr} {text : SessionConfig → List Byte}
    (hexec : ∀ s, exec i s = startPublic s fun c t => textSteps c t (text c)) : SendsText i text := by
  refine ⟨fun s r hr => ?_, fun s hi hinv => (hexec s).trans (onSession_invalid _ hi hinv)⟩
  exact completes_transfer hr ((hexec s).trans (startPublic_ready _ hr)) (transferSteps_text r.cfg s.timing _)
    fun hc => sends_text s.cur s.timing _ hc

/-- What follows the first terminator of a string is not sent. -/
theorem stringText_append_terminator (text rest : List Byte) :
    stringText (text ++ terminator :: rest) = stringText text := by
  induction text with
  | nil => rfl
  | cons b text ih =>
    simp only [stringText] at ih
    simp only [stringText, List.cons_append, List.takeWhile_cons, ih]

/-- PRINT_STR accepts a string with a terminator in it (30_encoding.md R89). -/
theorem exec_printStr_terminated (text rest : List Byte) (s : State) :
    exec (.printStr (text ++ terminator :: rest)) s =
      startPublic s fun c t => textSteps c t (stringText text) := by
  have hterm : (text ++ terminator :: rest).contains terminator = true := by simp
  rw [← stringText_append_terminator text rest]
  exact if_pos hterm

/-- Settles O51: the string has a terminator, and its text is what stands before the first one. -/
theorem printStrSendsUpToTheTerminator : Obligations.PrintStrSendsUpToTheTerminator := by
  intro text rest htext
  have hall : stringText text = text := List.takeWhile_eq_self_iff.2 fun b hb => bne_iff_ne.2 (htext b hb)
  refine sendsText_of_startPublic fun s => ?_
  have hexec := exec_printStr_terminated text rest s
  rwa [hall] at hexec

/-- An operation that prints an output with a terminator put after it sends the output up to a terminator in it. -/
theorem sendsText_of_output {i : Instr} (output : SessionConfig → List Byte)
    (hexec : ∀ s, exec i s = startPublic s fun c t => textSteps c t (stringText (output c ++ [terminator]))) :
    SendsText i fun c => stringText (output c) :=
  sendsText_of_startPublic fun s => by simp only [hexec, stringText_append_terminator]

/-- Settles O52: the terminator put after the formatter's output ends no text sooner than the output does. -/
theorem numbersPrintTheFormattersText : Obligations.NumbersPrintTheFormattersText := fun v =>
  ⟨sendsText_of_output (fun c => Config.fmtInt c.fmt v) fun _ => rfl,
    sendsText_of_output (fun c => Config.fmtDec c.fmt v) fun _ => rfl⟩

end Sys2Proof.Machine
end

section
/-! SUPPORT. The proofs about exceptional conditions (60_exceptions.md): an invalid session, and what a step leaves of
the sessions that are not current. -/

namespace Sys2Proof.Machine

/-- Settles O18: every such operation is in the wrapper of the session's operations, which does nothing on an invalid
session. -/
theorem invalidSessionMakesOperationsNoOps : Obligations.InvalidSessionMakesOperationsNoOps :=
  fun _ _ hk hwf hinit hs hinvalid => exec_invalidSession hk hwf hinit hs hinvalid

/-! ### Sessions that are not current -/

/-- A micro-step changes no register of a session that is not current; its receiver's state is none of them. -/
theorem perform_other_block {s : State} {k : Nat} (m : MicroStep) (hk : k ≠ s.cur) :
    (perform m s).sessions[k]?.map Session.block = s.sessions[k]?.map Session.block := by
  obtain e | ⟨h, msk, v, n, -, e⟩ := perform_other m hk <;> rw [e]
  rw [Option.map_map]
  exact congrArg (Option.map · _) (funext (disturbed_block h msk k n))

/-- A micro-step that writes no bit of a session that is not current leaves that session alone, receiver included. -/
theorem perform_other_apart {s : State} {k : Nat} {m : MicroStep} (hk : k ≠ s.cur)
    (hm : ∀ h msk v r, m = .pw h msk v → s.sessions[k]? = some (.valid r) → msk &&& ownedMask r.cfg h = 0) :
    (perform m s).sessions[k]? = s.sessions[k]? := by
  obtain e | ⟨h, msk, v, n, hpw, e⟩ := perform_other m hk
  · exact e
  · rw [e]
    cases hx : s.sessions[k]? with
    | none => rfl
    | some x =>
      have hapart : ∀ r, x = .valid r → msk &&& ownedMask r.cfg h = 0 :=
        fun r hr => hm h msk v r hpw (by rw [hx, hr])
      rw [Option.map_some, disturbed_apart k n hapart]

/-- Appending a session leaves those already constructed in their places. -/
theorem addSession_constructed {s : State} {k : Nat} (x : Session) (hk : k < s.sessions.length) :
    (addSession s x).sessions[k]? = s.sessions[k]? := List.getElem?_append_left hk

/-- A step leaves a session already constructed alone, or performs the head micro-step of a busy sequencer. -/
theorem step_constructed {s t : State} {k : Nat} (h : step s = .next t) (hk : k < s.sessions.length) :
    t.sessions[k]? = s.sessions[k]? ∨
      ∃ m rest, s.seq = .busy (m :: rest) ∧ t = (perform m s).withSeq (Seq.ofSteps rest) := by
  obtain ⟨ms, hs, e⟩ | ⟨-, -, rfl⟩ | ⟨a, m, v, rest, -, -, e⟩ | ⟨n, f, rest, i, -, -, hd, e⟩ := step_cases h
  · obtain ⟨-, rfl⟩ | ⟨m, rest, r, rfl, -, rfl⟩ := sequencerStep_next e
    · exact .inl rfl
    · exact .inr ⟨m, rest, hs, rfl⟩
  · exact .inl rfl
  · obtain ⟨-, -, rfl⟩ := foreignWrite_next e
    exact .inl rfl
  · obtain ⟨-, rfl | ⟨r, mid, -, -, rfl⟩ | rfl | ⟨c, -, -, rfl⟩⟩ := exec_next (decode_kind hd) e
    · exact .inl rfl
    · exact .inl rfl
    · exact .inl (addSession_constructed (s := (s.withInput rest).withCur n) _ hk)
    · exact .inl (addSession_constructed (s := (s.withInput rest).withCur n) _ hk)

/-- Settles O11: only a busy step touches a session already constructed, and its micro-step reaches one that is not
current by a write of its bits only, which changes its receiver's state and no register. -/
theorem otherSessionsAreUntouched : Obligations.OtherSessionsAreUntouched := by
  intro s t k h hlen hcur
  obtain e | ⟨m, rest, hs, rfl⟩ := step_constructed h hlen
  · exact ⟨congrArg (Option.map Session.block) e, fun _ => e⟩
  · have hk : k ≠ s.cur := by simpa using hcur
    refine ⟨perform_other_block m hk, fun hapart => perform_other_apart hk fun h msk v r hpw hr => ?_⟩
    exact hapart h msk v rest r (by rw [hs, hpw]) hr

end Sys2Proof.Machine
end

section
/-! SUPPORT. The proofs about reset and hazards (70_reset_and_hazards.md): the invariant at reset, E high on entry, and
the least time that a list of micro-steps takes. -/

namespace Sys2Proof.Machine

/-! ### The invariant at reset (R231) -/

/-- Settles O8: at reset the block is idle, its ports are canonical, and there is no session. -/
theorem invariantHoldsAtReset : Obligations.InvariantHoldsAtReset := by
  have hsessions : SessionsOk State.reset := fun _ hr => absurd hr List.not_mem_nil
  have htiming : TimingOk State.reset := fun ⟨_, hr⟩ => absurd hr List.not_mem_nil
  have hcaches : AllCachesLoaded State.reset := nofun
  exact (inv_idle_iff rfl).2 ⟨Memory.reset_wf, hsessions, htiming, hcaches⟩

/-! ### E high on entry (R239) -/

/-- What a list latches whatever the level of E, from a state with E high: its first transfer twice. -/
theorem latched_of_enableHigh {s : State} {r : SessionRegs} {body : List MicroStep} {ts : List Transfer} {l' : Lines}
    (hl : s.live = some r) (he : enableLine s r.cfg = true)
    (h : Drives r.cfg s.cur body (linesOf s r.cfg) (fromLevel (linesOf s r.cfg).enable ts) l') :
    (performAll body s).latched = s.latched ++ fromLevel true ts := by
  obtain ⟨hlatched, -⟩ := h s ⟨r, hl, rfl⟩ rfl rfl
  rwa [linesOf, he] at hlatched

/-- Settles O33: what a PULSE, a WRITE and a POKE latch from any lines, read at E high. -/
theorem enableHighOnEntryRepeatsTheFirstTransfer : Obligations.EnableHighOnEntryRepeatsTheFirstTransfer := by
  intro s r hl hc he
  refine ⟨?_, fun b rs => latched_of_enableHigh hl he (drives_write hc s.timing _ b rs),
    fun v => latched_of_enableHigh hl he (drives_poke hc s.timing _ v)⟩
  rw [transferOf_eq]
  exact latched_of_enableHigh hl he (drives_pulse hc s.timing _)

/-! ### The least time of a list of micro-steps (R240, R247) -/

@[simp] theorem minMicros_append (a b : List MicroStep) : minMicros (a ++ b) = minMicros a + minMicros b := by
  induction a with
  | nil => exact (Nat.zero_add _).symm
  | cons m ms ih => cases m <;> simp only [List.cons_append, minMicros, ih, Nat.add_assoc]

/-- CSE and CSR take no time. -/
@[simp] theorem minMicros_bracketed (body : List MicroStep) : minMicros (bracketed body) = minMicros body :=
  minMicros_append body [.csr]

@[simp] theorem minMicros_dly (d : Duration) : minMicros [.dly d] = micros d := rfl

@[simp] theorem minMicros_cw (reg : CacheReg) (v : Byte) : minMicros [.cw reg v] = 0 := rfl

/-- The least time of one PULSE: `P` of R247. -/
def pulseMicros (t : Timing) : Nat := t.tESetup + t.tEHigh + t.tExec

/-- The least time of one WRITE: one PULSE of eight lines, or two of four (R247). -/
def writeMicros (c : SessionConfig) (t : Timing) : Nat :=
  if c.busWidth = .eightBit then pulseMicros t else 2 * pulseMicros t

section

variable (c : SessionConfig) (t : Timing)

@[simp] theorem minMicros_pulse : minMicros (pulseSteps c t) = pulseMicros t := (Nat.add_assoc _ _ _).symm

/-- Loading the data lines takes no time. -/
@[simp] theorem minMicros_poke (v : Byte) : minMicros (pokeSteps c t v) = pulseMicros t := minMicros_pulse c t

@[simp] theorem minMicros_setRs (rs : Bool) : minMicros (setRsSteps c rs) = 0 := rfl

@[simp] theorem minMicros_write (b : Byte) (rs : Bool) : minMicros (writeSteps c t b rs) = writeMicros c t := by
  cases hw : c.busWidth with
  | eightBit => simp [writeSteps_eightBit t b rs hw, writeMicros, hw]
  | fourBit => simp [writeSteps_fourBit t b rs hw, writeMicros, hw, Nat.two_mul]

/-- A text takes the time of one WRITE for each byte. -/
@[simp] theorem minMicros_text (bs : List Byte) : minMicros (textSteps c t bs) = bs.length * writeMicros c t := by
  induction bs with
  | nil => exact (Nat.zero_mul _).symm
  | cons b bs ih => rw [textSteps, minMicros_append, minMicros_write, ih, List.length_cons, Nat.succ_mul, Nat.add_comm]

/-- The one poke of step 5, on four lines only (R135). -/
@[simp] theorem minMicros_initStep5 :
    minMicros (initStep5 c t) = if c.busWidth = .eightBit then 0 else pulseMicros t := by
  unfold initStep5
  cases c.busWidth with
  | eightBit => rfl
  | fourBit => exact minMicros_poke c t to4Pattern

/-- INIT: its four waits, and the three pokes of step 4, the poke of step 5 and the four WRITEs of steps 6 to 9. -/
@[simp] theorem minMicros_init :
    minMicros (initSteps c t) = 1000 * t.tPowerOn + 1000 * t.tInit1 + t.tInit2 +
      (if c.busWidth = .eightBit then 7 else 12) * pulseMicros t + 1000 * t.tLong := by
  have hdirections : minMicros (initStep2 c) = 0 := rfl
  have hpowerOn : minMicros (initStep3 c t) = micros (.ms t.tPowerOn) := by simp [initStep3, minMicros]
  simp only [initSteps_eq_bracketed, initBody, initDataSteps, initStep4, initStep6, initStep7, initStep8, initStep9,
    minMicros_bracketed, minMicros_append, hdirections, hpowerOn, minMicros_poke, minMicros_initStep5,
    minMicros_write, minMicros_dly, minMicros_cw, micros, writeMicros]
  split <;> omega

end

/-- Settles O56: the sum of each list, and its value at the default timings. -/
theorem minimumDurations : Obligations.MinimumDurations := by
  refine ⟨?_, fun c => ?_⟩
  · intro c t p w hp hw
    obtain rfl : p = pulseMicros t := hp
    obtain rfl : w = writeMicros c t := hw
    simp [micros, Nat.mul_comm 1000]
  · have hpulse : pulseMicros defaultTiming = 102 := rfl
    have hwrite : writeMicros c defaultTiming = if c.busWidth = .eightBit then 102 else 204 := rfl
    have hlong : micros (.ms defaultTiming.tLong) = 2000 := rfl
    refine ⟨minMicros_pulse c _, minMicros_write c _, fun b => ?_, fun bs => ?_, ?_⟩
    · rw [minMicros_bracketed, minMicros_append, minMicros_write, minMicros_dly, hwrite, hlong]
      split <;> rfl
    · rw [minMicros_bracketed, minMicros_text, hwrite]
    · rw [minMicros_init, hpulse]
      split <;> rfl

end Sys2Proof.Machine
end

section
/-! SUPPORT. The proof about a wire word placed for fetching (30_encoding.md, sections 1 and 2): only where there is no
session is an instruction refused as unconstructed, so the report of the step is the instruction's own answer. -/

namespace Sys2Proof.Machine

/-! ### What is refused for want of a session (10_state.md R36) -/

section
variable {s : State}

/-- The wrapper refuses so only with no session, if its continuation never does. -/
theorem noSession_of_onSession {k : SessionRegs → Host.Outcome State Fault Refusal}
    (h : onSession s k = .refused .unconstructed) (hk : ∀ r, k r ≠ .refused .unconstructed) :
    s.sessions[s.cur]? = none := by
  unfold onSession at h
  split at h
  · cases h
  · split at h
    · assumption
    · cases h
    · exact absurd h (hk _)

theorem noSession_of_startToggle {reg : CacheReg} {flag : Byte} {set : Bool}
    (h : startToggle s reg flag set = .refused .unconstructed) : s.sessions[s.cur]? = none := by
  refine noSession_of_onSession h fun r => ?_
  cases cacheOf r reg with
  | none => nofun
  | some old => nofun

theorem noSession_of_emitPoke {w : BusWidth} {v : Byte} (h : emitPoke s w v = .refused .unconstructed) :
    s.sessions[s.cur]? = none :=
  noSession_of_onSession h fun r => by split <;> nofun

theorem noSession_of_functionSet {dl n f : Bool} {x : BitVec 2}
    (h : execFunctionSet dl n f x s = .refused .unconstructed) : s.sessions[s.cur]? = none := by
  simp only [execFunctionSet] at h
  split at h
  · exact noSession_of_onSession h fun r => by split <;> nofun
  · cases h

theorem noSession_of_printStr {str : List Byte} (h : execPrintStr str s = .refused .unconstructed) :
    s.sessions[s.cur]? = none := by
  unfold execPrintStr at h
  split at h
  · exact noSession_of_onSession h fun _ => nofun
  · cases h

/-- INIT needs no session, so it is never refused for want of one (41_init.md R130). -/
theorem execInit_ne_unconstructed (c : SessionConfig) (a : Bool) : execInit c a s ≠ .refused .unconstructed := by
  unfold execInit
  split
  · nofun
  · split_ifs <;> nofun

/-- An instruction that the decoder gives is refused as unconstructed only where there is no session. -/
theorem noSession_of_exec {i : Instr} (hk : i.kind ≠ .internalOp) (h : exec i s = .refused .unconstructed) :
    s.sessions[s.cur]? = none := by
  cases i with
  | clearWord | returnHome | entryModeSet | displayControl | setDdramAddress | dataWrite | clear | home | setCursor
  | scrollLeft | scrollRight | printChar | printInt | printDec => exact noSession_of_onSession h fun _ => nofun
  | cursorDisplayShift sc =>
    cases sc with
    | false => cases h
    | true => exact noSession_of_onSession h fun _ => nofun
  | functionSet => exact noSession_of_functionSet h
  | setCgramAddress | notEmittedZero => cases h
  | syncPoke8 | syncPoke4 | to4Poke => exact noSession_of_emitPoke h
  | init c a => exact absurd h (execInit_ne_unconstructed c a)
  | displayOn | displayOff | cursorOn | cursorOff | blinkOn | blinkOff | ltr | rtl | autoscrollOn | autoscrollOff =>
    exact noSession_of_startToggle h
  | printStr => exact noSession_of_printStr h
  | pulse | setRs | write8 | write4 | write | poke => exact absurd rfl hk

/-- With a valid session, no such instruction is refused for want of one. -/
theorem exec_live_ne_unconstructed {i : Instr} {r : SessionRegs} (hk : i.kind ≠ .internalOp) (hl : s.live = some r) :
    exec i s ≠ .refused .unconstructed := fun h =>
  nomatch (State.live_eq_some.1 hl).symm.trans (noSession_of_exec hk h)

end

/-! ### A placed word (log 26, 12) -/

/-- A table word is read by the decoder of fetched words. -/
theorem decodeTableWord_eq_some {nbits w : Nat} {i : Instr} :
    decodeTableWord nbits w = some i ↔ decode (.word (tableBytes nbits w)) = .ok i := by
  change _ ↔ decodeWord _ = _
  unfold decodeTableWord
  cases decodeWord (tableBytes nbits w) with
  | ok j => simp
  | bad x => simp

/-- In an idle state with a valid session, placing a word puts one call of that session in front of the input. -/
theorem withFetchWord_live {s : State} {r : SessionRegs} (nbits w : Nat) (hs : s.seq = .idle) (hl : s.live = some r) :
    s.withFetchWord nbits w = s.withInput (.issue s.cur (.word (tableBytes nbits w)) :: s.input) := by
  rw [State.withFetchWord, placeWord, hl, ← hs]
  rfl

/-- Settles O14: the placed call is the next one, and taking it off again leaves the state before; with a valid session
the report of the step changes nothing. -/
theorem placedWordRunsNext : Obligations.PlacedWordRunsNext := by
  intro s r nbits w i hs hl hd
  have hdecode : decode (.word (tableBytes nbits w)) = .ok i := decodeTableWord_eq_some.1 hd
  calc step (s.withFetchWord nbits w)
      = step (s.withInput (.issue s.cur (.word (tableBytes nbits w)) :: s.input)) := by
        rw [withFetchWord_live nbits w hs hl]
    _ = reportLine (.word (tableBytes nbits w)) (exec i s) :=
        step_issue ((State.withInput_seq s _).trans hs) rfl hdecode
    _ = exec i s := reportLine_eq (exec_live_ne_unconstructed (decode_kind hdecode) hl)

end Sys2Proof.Machine
end
